-- ==== Sys2Proof/Word.lean ====
section
/-! DEFINITION. The two value types of the hardware (spec 00_scope.md R9, R10). Their arithmetic is that of
`BitVec`: addition, subtraction, increment and decrement wrap modulo 256 and modulo 65536 and never trap.
Byte order and width changes are in Decode.lean. -/

namespace Sys2Proof

/-- R9: an 8-bit unsigned value. A, X, Y, SP, P and a memory cell are bytes. -/
abbrev Byte := BitVec 8

/-- R10: a 16-bit unsigned value. Addresses and the program counter are words. -/
abbrev Word := BitVec 16

end Sys2Proof
end

