-- ==== Sys2Proof/Config.lean ====
section
/-! DEFINITION. What the spec leaves as a parameter (00_scope.md R5) and the named constants of the address map
(20_memory.md R58, R59). -/

namespace Sys2Proof

/-- The two readings of the operand byte of a branch that the spec names (30_encoding.md R86, 92_eei_decisions.md D2).
-/
inductive RelDecode
  /-- `offset = op8 - 128`, the spec's own value. -/
  | excess128
  /-- `offset = sext(op8)`, the alternative the spec keeps. -/
  | twosComplement
  deriving DecidableEq, Repr

namespace Config

/-- DESIGN CHOICE (log 1): the accumulator after power-up. The spec gives no value and says a model must not assume
one (10_state.md R40, `A_RESET`), so it is a free value: nothing can be proved of it. -/
opaque aReset : Byte

/-- `REL_DECODE`: the spec's value is `Excess128` (R86, 90_conflicts.md C5). UNVERIFIED (log 3): the silicon differs. -/
def relDecode : RelDecode := .excess128

/-- `STACK_ADDRESS`, the base of the stack page (R4, R58). -/
def stackAddress : Word := 0x0100

/-- `PROGRAM_LOAD`, the conventional load address (R4, R58); the core never uses it. -/
def programLoad : Word := 0x0500

/-- The address of the low byte of the BRK vector (R4, R58). -/
def brkVectorLow : Word := 0xFFFE

/-- The address of the high byte of the BRK vector (R4, R58). -/
def brkVectorHigh : Word := 0xFFFF

end Config

end Sys2Proof
end

