-- ==== Sys2Proof/Syntax.lean ====
section
/-! DEFINITION. The syntax of the instruction set: the 56 mnemonics, the 13 addressing modes, the operand of an
instruction (a mode with its operand bytes) and `Instr`, one constructor per row of spec/opcode_table.json. -/

namespace Sys2Proof

/-- The 56 mnemonics (30_encoding.md R87). -/
inductive Mnemonic
  | lda | ldx | ldy | sta | stx | sty | tax | tay | txa | tya | tsx | txs
  | and | ora | eor | bit | cmp | cpx | cpy | adc | sbc | inc | dec | inx
  | iny | dex | dey | asl | lsr | rol | ror | pha | php | pla | plp | jmp
  | jsr | rts | rti | bcc | bcs | beq | bne | bpl | bmi | bvc | bvs | brk
  | nop | clc | cld | cli | clv | sec | sed | sei
  deriving DecidableEq, Repr

/-- The thirteen addressing modes, by the abbreviations of R84. -/
inductive Mode
  /-- Immediate -/
  | imm
  /-- ZeroPage -/
  | zp
  /-- ZeroPageX -/
  | zpx
  /-- ZeroPageY -/
  | zpy
  /-- Absolute -/
  | abs
  /-- AbsoluteXIndexed -/
  | absx
  /-- AbsoluteYIndexed -/
  | absy
  /-- Indirect -/
  | ind
  /-- PreIndexedIndirect -/
  | indx
  /-- PostIndexedIndirect -/
  | indy
  /-- Relative -/
  | rel
  /-- Accumulator -/
  | acc
  /-- Implied -/
  | imp
  deriving DecidableEq, Repr

/-- A mode together with the operand bytes it consumes (R81, R85): a byte `op8`, or the word assembled from `lo` and
`hi`, or nothing. -/
inductive Operand
  /-- Immediate -/
  | imm (v : Byte)
  /-- ZeroPage -/
  | zp (a : Byte)
  /-- ZeroPageX -/
  | zpx (a : Byte)
  /-- ZeroPageY -/
  | zpy (a : Byte)
  /-- Absolute -/
  | abs (w : Word)
  /-- AbsoluteXIndexed -/
  | absx (w : Word)
  /-- AbsoluteYIndexed -/
  | absy (w : Word)
  /-- Indirect -/
  | ind (w : Word)
  /-- PreIndexedIndirect -/
  | indx (a : Byte)
  /-- PostIndexedIndirect -/
  | indy (a : Byte)
  /-- Relative -/
  | rel (o : Byte)
  /-- Accumulator -/
  | acc
  /-- Implied -/
  | imp
  deriving DecidableEq, Repr

/-- The mode of an operand. -/
def Operand.mode : Operand → Mode
  | .imm _ => .imm
  | .zp _ => .zp
  | .zpx _ => .zpx
  | .zpy _ => .zpy
  | .abs _ => .abs
  | .absx _ => .absx
  | .absy _ => .absy
  | .ind _ => .ind
  | .indx _ => .indx
  | .indy _ => .indy
  | .rel _ => .rel
  | .acc => .acc
  | .imp => .imp

/-- The instructions: one constructor per row of spec/opcode_table.json, that is per (mnemonic, mode) pair of R94, with
the operand bytes as its argument. Every operand value is legal (R89), so the types carry all there is to check. -/
inductive Instr
  -- LDA (R130)
  | ldaImm (v : Byte)
  | ldaZp (a : Byte)
  | ldaZpx (a : Byte)
  | ldaAbs (w : Word)
  | ldaAbsx (w : Word)
  | ldaAbsy (w : Word)
  | ldaIndx (a : Byte)
  | ldaIndy (a : Byte)
  -- LDX (R131)
  | ldxImm (v : Byte)
  | ldxZp (a : Byte)
  | ldxZpy (a : Byte)
  | ldxAbs (w : Word)
  | ldxAbsy (w : Word)
  -- LDY (R132)
  | ldyImm (v : Byte)
  | ldyZp (a : Byte)
  | ldyZpx (a : Byte)
  | ldyAbs (w : Word)
  | ldyAbsx (w : Word)
  -- STA (R133)
  | staZp (a : Byte)
  | staZpx (a : Byte)
  | staAbs (w : Word)
  | staAbsx (w : Word)
  | staAbsy (w : Word)
  | staIndx (a : Byte)
  | staIndy (a : Byte)
  -- STX (R134)
  | stxZp (a : Byte)
  | stxZpy (a : Byte)
  | stxAbs (w : Word)
  -- STY (R135)
  | styZp (a : Byte)
  | styZpx (a : Byte)
  | styAbs (w : Word)
  -- TAX (R136)
  | tax
  -- TAY (R137)
  | tay
  -- TXA (R138)
  | txa
  -- TYA (R139)
  | tya
  -- TSX (R140)
  | tsx
  -- TXS (R141)
  | txs
  -- AND (R150)
  | andImm (v : Byte)
  | andZp (a : Byte)
  | andZpx (a : Byte)
  | andAbs (w : Word)
  | andAbsx (w : Word)
  | andAbsy (w : Word)
  | andIndx (a : Byte)
  | andIndy (a : Byte)
  -- ORA (R151)
  | oraImm (v : Byte)
  | oraZp (a : Byte)
  | oraZpx (a : Byte)
  | oraAbs (w : Word)
  | oraAbsx (w : Word)
  | oraAbsy (w : Word)
  | oraIndx (a : Byte)
  | oraIndy (a : Byte)
  -- EOR (R152)
  | eorImm (v : Byte)
  | eorZp (a : Byte)
  | eorZpx (a : Byte)
  | eorAbs (w : Word)
  | eorAbsx (w : Word)
  | eorAbsy (w : Word)
  | eorIndx (a : Byte)
  | eorIndy (a : Byte)
  -- BIT (R153)
  | bitZp (a : Byte)
  | bitAbs (w : Word)
  -- CMP (R154)
  | cmpImm (v : Byte)
  | cmpZp (a : Byte)
  | cmpZpx (a : Byte)
  | cmpAbs (w : Word)
  | cmpAbsx (w : Word)
  | cmpAbsy (w : Word)
  | cmpIndx (a : Byte)
  | cmpIndy (a : Byte)
  -- CPX (R155)
  | cpxImm (v : Byte)
  | cpxZp (a : Byte)
  | cpxAbs (w : Word)
  -- CPY (R156)
  | cpyImm (v : Byte)
  | cpyZp (a : Byte)
  | cpyAbs (w : Word)
  -- ADC (R170)
  | adcImm (v : Byte)
  | adcZp (a : Byte)
  | adcZpx (a : Byte)
  | adcAbs (w : Word)
  | adcAbsx (w : Word)
  | adcAbsy (w : Word)
  | adcIndx (a : Byte)
  | adcIndy (a : Byte)
  -- SBC (R171)
  | sbcImm (v : Byte)
  | sbcZp (a : Byte)
  | sbcZpx (a : Byte)
  | sbcAbs (w : Word)
  | sbcAbsx (w : Word)
  | sbcAbsy (w : Word)
  | sbcIndx (a : Byte)
  | sbcIndy (a : Byte)
  -- INC (R173)
  | incZp (a : Byte)
  | incZpx (a : Byte)
  | incAbs (w : Word)
  | incAbsx (w : Word)
  -- DEC (R174)
  | decZp (a : Byte)
  | decZpx (a : Byte)
  | decAbs (w : Word)
  | decAbsx (w : Word)
  -- INX (R175)
  | inx
  -- INY (R176)
  | iny
  -- DEX (R177)
  | dex
  -- DEY (R178)
  | dey
  -- ASL (R191)
  | aslZp (a : Byte)
  | aslZpx (a : Byte)
  | aslAbs (w : Word)
  | aslAbsx (w : Word)
  | aslAcc
  -- LSR (R192)
  | lsrZp (a : Byte)
  | lsrZpx (a : Byte)
  | lsrAbs (w : Word)
  | lsrAbsx (w : Word)
  | lsrAcc
  -- ROL (R193)
  | rolZp (a : Byte)
  | rolZpx (a : Byte)
  | rolAbs (w : Word)
  | rolAbsx (w : Word)
  | rolAcc
  -- ROR (R194)
  | rorZp (a : Byte)
  | rorZpx (a : Byte)
  | rorAbs (w : Word)
  | rorAbsx (w : Word)
  | rorAcc
  -- PHA (R203)
  | pha
  -- PHP (R204)
  | php
  -- PLA (R205)
  | pla
  -- PLP (R206)
  | plp
  -- JMP (R210)
  | jmpAbs (w : Word)
  | jmpInd (w : Word)
  -- JSR (R211)
  | jsr (w : Word)
  -- RTS (R212)
  | rts
  -- RTI (R213)
  | rti
  -- BCC (R215)
  | bcc (o : Byte)
  -- BCS (R216)
  | bcs (o : Byte)
  -- BEQ (R217)
  | beq (o : Byte)
  -- BNE (R218)
  | bne (o : Byte)
  -- BPL (R219)
  | bpl (o : Byte)
  -- BMI (R220)
  | bmi (o : Byte)
  -- BVC (R221)
  | bvc (o : Byte)
  -- BVS (R222)
  | bvs (o : Byte)
  -- BRK (R223)
  | brk
  -- NOP (R224)
  | nop
  -- CLC (R240)
  | clc
  -- CLD (R241)
  | cld
  -- CLI (R242)
  | cli
  -- CLV (R243)
  | clv
  -- SEC (R244)
  | sec
  -- SED (R245)
  | sed
  -- SEI (R246)
  | sei
  deriving DecidableEq, Repr

/-- The descriptor of an instruction (R83): its mnemonic, and its mode with the operand bytes. -/
def Instr.descriptor : Instr → Mnemonic × Operand
  | .ldaImm v => (.lda, .imm v)
  | .ldaZp a => (.lda, .zp a)
  | .ldaZpx a => (.lda, .zpx a)
  | .ldaAbs w => (.lda, .abs w)
  | .ldaAbsx w => (.lda, .absx w)
  | .ldaAbsy w => (.lda, .absy w)
  | .ldaIndx a => (.lda, .indx a)
  | .ldaIndy a => (.lda, .indy a)
  | .ldxImm v => (.ldx, .imm v)
  | .ldxZp a => (.ldx, .zp a)
  | .ldxZpy a => (.ldx, .zpy a)
  | .ldxAbs w => (.ldx, .abs w)
  | .ldxAbsy w => (.ldx, .absy w)
  | .ldyImm v => (.ldy, .imm v)
  | .ldyZp a => (.ldy, .zp a)
  | .ldyZpx a => (.ldy, .zpx a)
  | .ldyAbs w => (.ldy, .abs w)
  | .ldyAbsx w => (.ldy, .absx w)
  | .staZp a => (.sta, .zp a)
  | .staZpx a => (.sta, .zpx a)
  | .staAbs w => (.sta, .abs w)
  | .staAbsx w => (.sta, .absx w)
  | .staAbsy w => (.sta, .absy w)
  | .staIndx a => (.sta, .indx a)
  | .staIndy a => (.sta, .indy a)
  | .stxZp a => (.stx, .zp a)
  | .stxZpy a => (.stx, .zpy a)
  | .stxAbs w => (.stx, .abs w)
  | .styZp a => (.sty, .zp a)
  | .styZpx a => (.sty, .zpx a)
  | .styAbs w => (.sty, .abs w)
  | .tax => (.tax, .imp)
  | .tay => (.tay, .imp)
  | .txa => (.txa, .imp)
  | .tya => (.tya, .imp)
  | .tsx => (.tsx, .imp)
  | .txs => (.txs, .imp)
  | .andImm v => (.and, .imm v)
  | .andZp a => (.and, .zp a)
  | .andZpx a => (.and, .zpx a)
  | .andAbs w => (.and, .abs w)
  | .andAbsx w => (.and, .absx w)
  | .andAbsy w => (.and, .absy w)
  | .andIndx a => (.and, .indx a)
  | .andIndy a => (.and, .indy a)
  | .oraImm v => (.ora, .imm v)
  | .oraZp a => (.ora, .zp a)
  | .oraZpx a => (.ora, .zpx a)
  | .oraAbs w => (.ora, .abs w)
  | .oraAbsx w => (.ora, .absx w)
  | .oraAbsy w => (.ora, .absy w)
  | .oraIndx a => (.ora, .indx a)
  | .oraIndy a => (.ora, .indy a)
  | .eorImm v => (.eor, .imm v)
  | .eorZp a => (.eor, .zp a)
  | .eorZpx a => (.eor, .zpx a)
  | .eorAbs w => (.eor, .abs w)
  | .eorAbsx w => (.eor, .absx w)
  | .eorAbsy w => (.eor, .absy w)
  | .eorIndx a => (.eor, .indx a)
  | .eorIndy a => (.eor, .indy a)
  | .bitZp a => (.bit, .zp a)
  | .bitAbs w => (.bit, .abs w)
  | .cmpImm v => (.cmp, .imm v)
  | .cmpZp a => (.cmp, .zp a)
  | .cmpZpx a => (.cmp, .zpx a)
  | .cmpAbs w => (.cmp, .abs w)
  | .cmpAbsx w => (.cmp, .absx w)
  | .cmpAbsy w => (.cmp, .absy w)
  | .cmpIndx a => (.cmp, .indx a)
  | .cmpIndy a => (.cmp, .indy a)
  | .cpxImm v => (.cpx, .imm v)
  | .cpxZp a => (.cpx, .zp a)
  | .cpxAbs w => (.cpx, .abs w)
  | .cpyImm v => (.cpy, .imm v)
  | .cpyZp a => (.cpy, .zp a)
  | .cpyAbs w => (.cpy, .abs w)
  | .adcImm v => (.adc, .imm v)
  | .adcZp a => (.adc, .zp a)
  | .adcZpx a => (.adc, .zpx a)
  | .adcAbs w => (.adc, .abs w)
  | .adcAbsx w => (.adc, .absx w)
  | .adcAbsy w => (.adc, .absy w)
  | .adcIndx a => (.adc, .indx a)
  | .adcIndy a => (.adc, .indy a)
  | .sbcImm v => (.sbc, .imm v)
  | .sbcZp a => (.sbc, .zp a)
  | .sbcZpx a => (.sbc, .zpx a)
  | .sbcAbs w => (.sbc, .abs w)
  | .sbcAbsx w => (.sbc, .absx w)
  | .sbcAbsy w => (.sbc, .absy w)
  | .sbcIndx a => (.sbc, .indx a)
  | .sbcIndy a => (.sbc, .indy a)
  | .incZp a => (.inc, .zp a)
  | .incZpx a => (.inc, .zpx a)
  | .incAbs w => (.inc, .abs w)
  | .incAbsx w => (.inc, .absx w)
  | .decZp a => (.dec, .zp a)
  | .decZpx a => (.dec, .zpx a)
  | .decAbs w => (.dec, .abs w)
  | .decAbsx w => (.dec, .absx w)
  | .inx => (.inx, .imp)
  | .iny => (.iny, .imp)
  | .dex => (.dex, .imp)
  | .dey => (.dey, .imp)
  | .aslZp a => (.asl, .zp a)
  | .aslZpx a => (.asl, .zpx a)
  | .aslAbs w => (.asl, .abs w)
  | .aslAbsx w => (.asl, .absx w)
  | .aslAcc => (.asl, .acc)
  | .lsrZp a => (.lsr, .zp a)
  | .lsrZpx a => (.lsr, .zpx a)
  | .lsrAbs w => (.lsr, .abs w)
  | .lsrAbsx w => (.lsr, .absx w)
  | .lsrAcc => (.lsr, .acc)
  | .rolZp a => (.rol, .zp a)
  | .rolZpx a => (.rol, .zpx a)
  | .rolAbs w => (.rol, .abs w)
  | .rolAbsx w => (.rol, .absx w)
  | .rolAcc => (.rol, .acc)
  | .rorZp a => (.ror, .zp a)
  | .rorZpx a => (.ror, .zpx a)
  | .rorAbs w => (.ror, .abs w)
  | .rorAbsx w => (.ror, .absx w)
  | .rorAcc => (.ror, .acc)
  | .pha => (.pha, .imp)
  | .php => (.php, .imp)
  | .pla => (.pla, .imp)
  | .plp => (.plp, .imp)
  | .jmpAbs w => (.jmp, .abs w)
  | .jmpInd w => (.jmp, .ind w)
  | .jsr w => (.jsr, .abs w)
  | .rts => (.rts, .imp)
  | .rti => (.rti, .imp)
  | .bcc o => (.bcc, .rel o)
  | .bcs o => (.bcs, .rel o)
  | .beq o => (.beq, .rel o)
  | .bne o => (.bne, .rel o)
  | .bpl o => (.bpl, .rel o)
  | .bmi o => (.bmi, .rel o)
  | .bvc o => (.bvc, .rel o)
  | .bvs o => (.bvs, .rel o)
  | .brk => (.brk, .imp)
  | .nop => (.nop, .imp)
  | .clc => (.clc, .imp)
  | .cld => (.cld, .imp)
  | .cli => (.cli, .imp)
  | .clv => (.clv, .imp)
  | .sec => (.sec, .imp)
  | .sed => (.sed, .imp)
  | .sei => (.sei, .imp)

/-- The mnemonic of an instruction. -/
def Instr.mnemonic (i : Instr) : Mnemonic := i.descriptor.1

/-- The operand of an instruction. -/
def Instr.operand (i : Instr) : Operand := i.descriptor.2

/-- The addressing mode of an instruction. -/
def Instr.mode (i : Instr) : Mode := i.operand.mode

end Sys2Proof
end

