-- ==== Sys2Proof/WellFormed.lean ====
section
/-! DEFINITION. Which instructions exist: the (mnemonic, mode) pairs of 30_encoding.md R94. Operand bytes need no check:
"every value 0x00 to 0xFF of `op8`, `lo` and `hi` is legal in every format" (R89), and their widths are types. -/

namespace Sys2Proof

/-- The modes each mnemonic takes (R94); "a pair that is not listed does not exist". -/
def Mnemonic.modes : Mnemonic → List Mode
  | .lda | .and | .ora | .eor | .cmp | .adc | .sbc =>
    [.imm, .zp, .zpx, .abs, .absx, .absy, .indx, .indy]
  | .ldx =>
    [.imm, .zp, .zpy, .abs, .absy]
  | .ldy =>
    [.imm, .zp, .zpx, .abs, .absx]
  | .sta =>
    [.zp, .zpx, .abs, .absx, .absy, .indx, .indy]
  | .stx =>
    [.zp, .zpy, .abs]
  | .sty =>
    [.zp, .zpx, .abs]
  | .tax | .tay | .txa | .tya | .tsx | .txs | .inx | .iny | .dex | .dey | .pha | .php
  | .pla | .plp | .rts | .rti | .brk | .nop | .clc | .cld | .cli | .clv | .sec | .sed | .sei =>
    [.imp]
  | .bit =>
    [.zp, .abs]
  | .cpx | .cpy =>
    [.imm, .zp, .abs]
  | .inc | .dec =>
    [.zp, .zpx, .abs, .absx]
  | .asl | .lsr | .rol | .ror =>
    [.zp, .zpx, .abs, .absx, .acc]
  | .jmp =>
    [.abs, .ind]
  | .jsr =>
    [.abs]
  | .bcc | .bcs | .beq | .bne | .bpl | .bmi | .bvc | .bvs =>
    [.rel]

/-- A mnemonic and an operand are well formed when the mnemonic has the operand's mode. This is the model's one check:
an illegal pair (a store to an immediate, say) is a term of `Mnemonic × Operand` that it refuses. -/
def descriptorWf (d : Mnemonic × Operand) : Bool := d.1.modes.contains d.2.mode

/-- A well-formed instruction. By its constructors every `Instr` has a pair of R94. -/
def Instr.wf (i : Instr) : Bool := descriptorWf i.descriptor

end Sys2Proof
end

