-- ==== Sys2Proof/Decode.lean ====
section
/-! DEFINITION. Decoding (30_encoding.md R80 to R90) and encoding (R91). The decoder is the matrix of R87, read by the
whole opcode byte; the encoder is written from the list by mnemonic of R94, a second reading of the same map. The byte
order helpers they use stand first. UNVERIFIED (log 2): every opcode byte but BRK = 0x00 is the spec's general
knowledge. -/

namespace Sys2Proof

/-- `lo(w) = w[7:0]` (00_scope.md R6). -/
def lo (w : Word) : Byte := w.setWidth 8

/-- `hi(w) = w[15:8]` (R6). -/
def hi (w : Word) : Byte := (w >>> 8).setWidth 8

/-- `word(l, h) = h * 256 + l` (R6). -/
def word (l h : Byte) : Word := h.setWidth 16 * 256 + l.setWidth 16

/-- `zext_16(b)` (R7). -/
def zext16 (b : Byte) : Word := b.setWidth 16

/-- `sext_16(b)` (R7). -/
def sext16 (b : Byte) : Word := b.signExtend 16

/-- What an opcode byte stands for: an instruction without operand bytes (format F1), with one (F2) or with two (F3),
R81. -/
inductive Form
  | bare (i : Instr)
  | byte (mk : Byte → Instr)
  | pair (mk : Word → Instr)

/-- The operand bytes a form consumes (R82). -/
def Form.size : Form → Nat
  | .bare _ => 0
  | .byte _ => 1
  | .pair _ => 2

/-- Operand assembly (R85): `op8` as it stands, `word(lo, hi)` little-endian. -/
def Form.assemble (f : Form) (b0 b1 : Byte) : Instr :=
  match f with
  | .bare i => i
  | .byte mk => mk b0
  | .pair mk => mk (word b0 b1)

/-- Row 0x of the matrix of R87. -/
def opcodesRow0 : List (Byte × Form) :=
  [(0x00, .bare .brk), (0x01, .byte .oraIndx), (0x05, .byte .oraZp), (0x06, .byte .aslZp), (0x08, .bare .php),
   (0x09, .byte .oraImm), (0x0A, .bare .aslAcc), (0x0D, .pair .oraAbs), (0x0E, .pair .aslAbs)]

/-- Row 1x of the matrix of R87. -/
def opcodesRow1 : List (Byte × Form) :=
  [(0x10, .byte .bpl), (0x11, .byte .oraIndy), (0x15, .byte .oraZpx), (0x16, .byte .aslZpx), (0x18, .bare .clc),
   (0x19, .pair .oraAbsy), (0x1D, .pair .oraAbsx), (0x1E, .pair .aslAbsx)]

/-- Row 2x of the matrix of R87. -/
def opcodesRow2 : List (Byte × Form) :=
  [(0x20, .pair .jsr), (0x21, .byte .andIndx), (0x24, .byte .bitZp), (0x25, .byte .andZp), (0x26, .byte .rolZp),
   (0x28, .bare .plp), (0x29, .byte .andImm), (0x2A, .bare .rolAcc), (0x2C, .pair .bitAbs), (0x2D, .pair .andAbs),
   (0x2E, .pair .rolAbs)]

/-- Row 3x of the matrix of R87. -/
def opcodesRow3 : List (Byte × Form) :=
  [(0x30, .byte .bmi), (0x31, .byte .andIndy), (0x35, .byte .andZpx), (0x36, .byte .rolZpx), (0x38, .bare .sec),
   (0x39, .pair .andAbsy), (0x3D, .pair .andAbsx), (0x3E, .pair .rolAbsx)]

/-- Row 4x of the matrix of R87. -/
def opcodesRow4 : List (Byte × Form) :=
  [(0x40, .bare .rti), (0x41, .byte .eorIndx), (0x45, .byte .eorZp), (0x46, .byte .lsrZp), (0x48, .bare .pha),
   (0x49, .byte .eorImm), (0x4A, .bare .lsrAcc), (0x4C, .pair .jmpAbs), (0x4D, .pair .eorAbs), (0x4E, .pair .lsrAbs)]

/-- Row 5x of the matrix of R87. -/
def opcodesRow5 : List (Byte × Form) :=
  [(0x50, .byte .bvc), (0x51, .byte .eorIndy), (0x55, .byte .eorZpx), (0x56, .byte .lsrZpx), (0x58, .bare .cli),
   (0x59, .pair .eorAbsy), (0x5D, .pair .eorAbsx), (0x5E, .pair .lsrAbsx)]

/-- Row 6x of the matrix of R87. -/
def opcodesRow6 : List (Byte × Form) :=
  [(0x60, .bare .rts), (0x61, .byte .adcIndx), (0x65, .byte .adcZp), (0x66, .byte .rorZp), (0x68, .bare .pla),
   (0x69, .byte .adcImm), (0x6A, .bare .rorAcc), (0x6C, .pair .jmpInd), (0x6D, .pair .adcAbs), (0x6E, .pair .rorAbs)]

/-- Row 7x of the matrix of R87. -/
def opcodesRow7 : List (Byte × Form) :=
  [(0x70, .byte .bvs), (0x71, .byte .adcIndy), (0x75, .byte .adcZpx), (0x76, .byte .rorZpx), (0x78, .bare .sei),
   (0x79, .pair .adcAbsy), (0x7D, .pair .adcAbsx), (0x7E, .pair .rorAbsx)]

/-- Row 8x of the matrix of R87. -/
def opcodesRow8 : List (Byte × Form) :=
  [(0x81, .byte .staIndx), (0x84, .byte .styZp), (0x85, .byte .staZp), (0x86, .byte .stxZp), (0x88, .bare .dey),
   (0x8A, .bare .txa), (0x8C, .pair .styAbs), (0x8D, .pair .staAbs), (0x8E, .pair .stxAbs)]

/-- Row 9x of the matrix of R87. -/
def opcodesRow9 : List (Byte × Form) :=
  [(0x90, .byte .bcc), (0x91, .byte .staIndy), (0x94, .byte .styZpx), (0x95, .byte .staZpx), (0x96, .byte .stxZpy),
   (0x98, .bare .tya), (0x99, .pair .staAbsy), (0x9A, .bare .txs), (0x9D, .pair .staAbsx)]

/-- Row Ax of the matrix of R87. -/
def opcodesRowA : List (Byte × Form) :=
  [(0xA0, .byte .ldyImm), (0xA1, .byte .ldaIndx), (0xA2, .byte .ldxImm), (0xA4, .byte .ldyZp), (0xA5, .byte .ldaZp),
   (0xA6, .byte .ldxZp), (0xA8, .bare .tay), (0xA9, .byte .ldaImm), (0xAA, .bare .tax), (0xAC, .pair .ldyAbs),
   (0xAD, .pair .ldaAbs), (0xAE, .pair .ldxAbs)]

/-- Row Bx of the matrix of R87. -/
def opcodesRowB : List (Byte × Form) :=
  [(0xB0, .byte .bcs), (0xB1, .byte .ldaIndy), (0xB4, .byte .ldyZpx), (0xB5, .byte .ldaZpx), (0xB6, .byte .ldxZpy),
   (0xB8, .bare .clv), (0xB9, .pair .ldaAbsy), (0xBA, .bare .tsx), (0xBC, .pair .ldyAbsx), (0xBD, .pair .ldaAbsx),
   (0xBE, .pair .ldxAbsy)]

/-- Row Cx of the matrix of R87. -/
def opcodesRowC : List (Byte × Form) :=
  [(0xC0, .byte .cpyImm), (0xC1, .byte .cmpIndx), (0xC4, .byte .cpyZp), (0xC5, .byte .cmpZp), (0xC6, .byte .decZp),
   (0xC8, .bare .iny), (0xC9, .byte .cmpImm), (0xCA, .bare .dex), (0xCC, .pair .cpyAbs), (0xCD, .pair .cmpAbs),
   (0xCE, .pair .decAbs)]

/-- Row Dx of the matrix of R87. -/
def opcodesRowD : List (Byte × Form) :=
  [(0xD0, .byte .bne), (0xD1, .byte .cmpIndy), (0xD5, .byte .cmpZpx), (0xD6, .byte .decZpx), (0xD8, .bare .cld),
   (0xD9, .pair .cmpAbsy), (0xDD, .pair .cmpAbsx), (0xDE, .pair .decAbsx)]

/-- Row Ex of the matrix of R87. -/
def opcodesRowE : List (Byte × Form) :=
  [(0xE0, .byte .cpxImm), (0xE1, .byte .sbcIndx), (0xE4, .byte .cpxZp), (0xE5, .byte .sbcZp), (0xE6, .byte .incZp),
   (0xE8, .bare .inx), (0xE9, .byte .sbcImm), (0xEA, .bare .nop), (0xEC, .pair .cpxAbs), (0xED, .pair .sbcAbs),
   (0xEE, .pair .incAbs)]

/-- Row Fx of the matrix of R87. -/
def opcodesRowF : List (Byte × Form) :=
  [(0xF0, .byte .beq), (0xF1, .byte .sbcIndy), (0xF5, .byte .sbcZpx), (0xF6, .byte .incZpx), (0xF8, .bare .sed),
   (0xF9, .pair .sbcAbsy), (0xFD, .pair .sbcAbsx), (0xFE, .pair .incAbsx)]

/-- The instruction table of R87, 151 entries. "The table is a fixed, compile-time-constant list" (R83). -/
def opcodeTable : List (Byte × Form) :=
  opcodesRow0 ++ opcodesRow1 ++ opcodesRow2 ++ opcodesRow3 ++ opcodesRow4 ++ opcodesRow5 ++ opcodesRow6 ++ opcodesRow7 ++
  opcodesRow8 ++ opcodesRow9 ++ opcodesRowA ++ opcodesRowB ++ opcodesRowC ++ opcodesRowD ++ opcodesRowE ++ opcodesRowF

/-- Decode is a lookup of the whole opcode byte (R83); no entry means an undefined opcode (R88). -/
def lookupOpcode (op : Byte) : Option Form := (opcodeTable.find? fun e => e.1 == op).map Prod.snd

/-- Why bytes are no instruction. -/
inductive DecodeError
  /-- The opcode byte has no entry in the table (R83, R88). -/
  | undefinedOpcode (op : Byte)
  /-- The list ends before the instruction does. A step never sees it: it fetches as many bytes as the longest form
  has. -/
  | truncated
  deriving DecidableEq, Repr

/-- Read one instruction from the front of a list of bytes; the rest is handed back (R80, R90). -/
def decode : List Byte → Except DecodeError (Instr × List Byte)
  | [] => .error .truncated
  | op :: rest =>
    match lookupOpcode op with
    | none => .error (.undefinedOpcode op)
    | some f =>
      if rest.length < f.size then .error .truncated
      else .ok (f.assemble (rest.getD 0 0) (rest.getD 1 0), rest.drop f.size)

/-- The bytes of an instruction, opcode first, `lo` before `hi` (R81), with the opcode of each pair as R94 lists it. -/
def encode : Instr → List Byte
  | .ldaImm v => [0xA9, v]
  | .ldaZp a => [0xA5, a]
  | .ldaZpx a => [0xB5, a]
  | .ldaAbs w => [0xAD, lo w, hi w]
  | .ldaAbsx w => [0xBD, lo w, hi w]
  | .ldaAbsy w => [0xB9, lo w, hi w]
  | .ldaIndx a => [0xA1, a]
  | .ldaIndy a => [0xB1, a]
  | .ldxImm v => [0xA2, v]
  | .ldxZp a => [0xA6, a]
  | .ldxZpy a => [0xB6, a]
  | .ldxAbs w => [0xAE, lo w, hi w]
  | .ldxAbsy w => [0xBE, lo w, hi w]
  | .ldyImm v => [0xA0, v]
  | .ldyZp a => [0xA4, a]
  | .ldyZpx a => [0xB4, a]
  | .ldyAbs w => [0xAC, lo w, hi w]
  | .ldyAbsx w => [0xBC, lo w, hi w]
  | .staZp a => [0x85, a]
  | .staZpx a => [0x95, a]
  | .staAbs w => [0x8D, lo w, hi w]
  | .staAbsx w => [0x9D, lo w, hi w]
  | .staAbsy w => [0x99, lo w, hi w]
  | .staIndx a => [0x81, a]
  | .staIndy a => [0x91, a]
  | .stxZp a => [0x86, a]
  | .stxZpy a => [0x96, a]
  | .stxAbs w => [0x8E, lo w, hi w]
  | .styZp a => [0x84, a]
  | .styZpx a => [0x94, a]
  | .styAbs w => [0x8C, lo w, hi w]
  | .tax => [0xAA]
  | .tay => [0xA8]
  | .txa => [0x8A]
  | .tya => [0x98]
  | .tsx => [0xBA]
  | .txs => [0x9A]
  | .andImm v => [0x29, v]
  | .andZp a => [0x25, a]
  | .andZpx a => [0x35, a]
  | .andAbs w => [0x2D, lo w, hi w]
  | .andAbsx w => [0x3D, lo w, hi w]
  | .andAbsy w => [0x39, lo w, hi w]
  | .andIndx a => [0x21, a]
  | .andIndy a => [0x31, a]
  | .oraImm v => [0x09, v]
  | .oraZp a => [0x05, a]
  | .oraZpx a => [0x15, a]
  | .oraAbs w => [0x0D, lo w, hi w]
  | .oraAbsx w => [0x1D, lo w, hi w]
  | .oraAbsy w => [0x19, lo w, hi w]
  | .oraIndx a => [0x01, a]
  | .oraIndy a => [0x11, a]
  | .eorImm v => [0x49, v]
  | .eorZp a => [0x45, a]
  | .eorZpx a => [0x55, a]
  | .eorAbs w => [0x4D, lo w, hi w]
  | .eorAbsx w => [0x5D, lo w, hi w]
  | .eorAbsy w => [0x59, lo w, hi w]
  | .eorIndx a => [0x41, a]
  | .eorIndy a => [0x51, a]
  | .bitZp a => [0x24, a]
  | .bitAbs w => [0x2C, lo w, hi w]
  | .cmpImm v => [0xC9, v]
  | .cmpZp a => [0xC5, a]
  | .cmpZpx a => [0xD5, a]
  | .cmpAbs w => [0xCD, lo w, hi w]
  | .cmpAbsx w => [0xDD, lo w, hi w]
  | .cmpAbsy w => [0xD9, lo w, hi w]
  | .cmpIndx a => [0xC1, a]
  | .cmpIndy a => [0xD1, a]
  | .cpxImm v => [0xE0, v]
  | .cpxZp a => [0xE4, a]
  | .cpxAbs w => [0xEC, lo w, hi w]
  | .cpyImm v => [0xC0, v]
  | .cpyZp a => [0xC4, a]
  | .cpyAbs w => [0xCC, lo w, hi w]
  | .adcImm v => [0x69, v]
  | .adcZp a => [0x65, a]
  | .adcZpx a => [0x75, a]
  | .adcAbs w => [0x6D, lo w, hi w]
  | .adcAbsx w => [0x7D, lo w, hi w]
  | .adcAbsy w => [0x79, lo w, hi w]
  | .adcIndx a => [0x61, a]
  | .adcIndy a => [0x71, a]
  | .sbcImm v => [0xE9, v]
  | .sbcZp a => [0xE5, a]
  | .sbcZpx a => [0xF5, a]
  | .sbcAbs w => [0xED, lo w, hi w]
  | .sbcAbsx w => [0xFD, lo w, hi w]
  | .sbcAbsy w => [0xF9, lo w, hi w]
  | .sbcIndx a => [0xE1, a]
  | .sbcIndy a => [0xF1, a]
  | .incZp a => [0xE6, a]
  | .incZpx a => [0xF6, a]
  | .incAbs w => [0xEE, lo w, hi w]
  | .incAbsx w => [0xFE, lo w, hi w]
  | .decZp a => [0xC6, a]
  | .decZpx a => [0xD6, a]
  | .decAbs w => [0xCE, lo w, hi w]
  | .decAbsx w => [0xDE, lo w, hi w]
  | .inx => [0xE8]
  | .iny => [0xC8]
  | .dex => [0xCA]
  | .dey => [0x88]
  | .aslZp a => [0x06, a]
  | .aslZpx a => [0x16, a]
  | .aslAbs w => [0x0E, lo w, hi w]
  | .aslAbsx w => [0x1E, lo w, hi w]
  | .aslAcc => [0x0A]
  | .lsrZp a => [0x46, a]
  | .lsrZpx a => [0x56, a]
  | .lsrAbs w => [0x4E, lo w, hi w]
  | .lsrAbsx w => [0x5E, lo w, hi w]
  | .lsrAcc => [0x4A]
  | .rolZp a => [0x26, a]
  | .rolZpx a => [0x36, a]
  | .rolAbs w => [0x2E, lo w, hi w]
  | .rolAbsx w => [0x3E, lo w, hi w]
  | .rolAcc => [0x2A]
  | .rorZp a => [0x66, a]
  | .rorZpx a => [0x76, a]
  | .rorAbs w => [0x6E, lo w, hi w]
  | .rorAbsx w => [0x7E, lo w, hi w]
  | .rorAcc => [0x6A]
  | .pha => [0x48]
  | .php => [0x08]
  | .pla => [0x68]
  | .plp => [0x28]
  | .jmpAbs w => [0x4C, lo w, hi w]
  | .jmpInd w => [0x6C, lo w, hi w]
  | .jsr w => [0x20, lo w, hi w]
  | .rts => [0x60]
  | .rti => [0x40]
  | .bcc o => [0x90, o]
  | .bcs o => [0xB0, o]
  | .beq o => [0xF0, o]
  | .bne o => [0xD0, o]
  | .bpl o => [0x10, o]
  | .bmi o => [0x30, o]
  | .bvc o => [0x50, o]
  | .bvs o => [0x70, o]
  | .brk => [0x00]
  | .nop => [0xEA]
  | .clc => [0x18]
  | .cld => [0xD8]
  | .cli => [0x58]
  | .clv => [0xB8]
  | .sec => [0x38]
  | .sed => [0xF8]
  | .sei => [0x78]

/-- The opcode byte of an instruction: the inverse lookup of R91. -/
def opcodeOf (i : Instr) : Byte := (encode i).headD 0

/-- The first three bytes of a number: byte `k` is bits `8k+7..8k`, the longest instruction being three bytes (R82). -/
def bytesOfWord (w : Nat) : List Byte :=
  [BitVec.ofNat 8 w, BitVec.ofNat 8 (w / 256), BitVec.ofNat 8 (w / 65536)]

/-- The instruction the decoder reads from the `nbits` low bits of `w`, the first byte lowest, zeros above. -/
def decodeTableWord (nbits w : Nat) : Option Instr :=
  match decode (bytesOfWord (w % 2 ^ nbits)) with
  | .ok (i, _) => some i
  | .error _ => none

end Sys2Proof
end

