-- ==== Sys2Proof/Machine/State.lean ====
section
/-! DEFINITION. The state of the machine: the six registers of the block (spec 10_state.md R20) and the memory it
addresses (20_memory.md R50). There is no other state (R36, R39). -/

namespace Sys2Proof.Machine

/-- Memory as (address, byte) pairs; its canonical form is `Memory.wf` (Ops.lean). -/
abbrev Memory := List Host.Cell

/-- The state a step is a function of: "(A, X, Y, PC, SP, P, memory) alone" (R39). -/
structure State where
  /-- accumulator (R21) -/
  a : Byte
  /-- index register X (R22) -/
  x : Byte
  /-- index register Y (R23) -/
  y : Byte
  /-- program counter: between steps the address of the next opcode byte (R24) -/
  pc : Word
  /-- stack pointer, an index into the stack page (R25) -/
  sp : Byte
  /-- processor status, ONE packed byte, "the canonical source of truth" (R26, R32) -/
  p : Byte
  /-- the 64 KiB memory, the cells that differ from the unlisted byte -/
  mem : Memory
  deriving DecidableEq, Repr

/-- The four byte registers that instructions name (R21 to R23, R25). A name, not a number: no encoding holds one
(R81). -/
inductive Reg
  | a | x | y | sp
  deriving DecidableEq, Repr

/-- Why a step ends without a next state (60_exceptions.md R258). -/
inductive Fault
  /-- Raised by `step` when the byte at PC is one of the 105 undefined opcodes; carries the byte and P0 (R251).
  Safe: the spec names this stop, and no register and no cell has changed. -/
  | undefinedOpcode (opcode : Byte) (p0 : Word)
  /-- Raised where an operation needs an address or an offset that its operand does not give, or where the fetched bytes
  are too few (R121, R252). No instruction of the table and no state raises it. Safe: a stop, and unreachable. -/
  | contractViolation
  deriving DecidableEq, Repr

/-- Why a step has no meaning. -/
inductive Refusal
  /-- Raised by an arm of `exec` whose instruction has no meaning yet; no arm does. Safe: nothing is claimed of it. -/
  | notModelled (mnemonic : String)
  deriving DecidableEq, Repr

/-- The machine right after power-up or reset (R40, R280): PC 0x0000, SP 0xFF, all flags false, X and Y cleared,
memory as never written. DESIGN CHOICE (log 1): A is the free value `Config.aReset`, since the spec leaves it open. -/
def State.reset : State :=
  { a := Config.aReset, x := 0x00, y := 0x00, pc := 0x0000, sp := 0xFF, p := 0x00, mem := [] }

end Sys2Proof.Machine
end

