-- ==== Sys2Proof/Machine/Flags.lean ====
section
/-! DEFINITION. The bits of P and every computation that yields flags (spec 10_state.md R26 to R35, and the flag lines
of files 42 to 44). -/

namespace Sys2Proof.Machine

/-- The eight flags of P (R26). -/
inductive Flag
  | c | z | i | d | b | u | v | n
  deriving DecidableEq, Repr

/-- "bit0=C, bit1=Z, bit2=I, bit3=D, bit4=B, bit5=unused, bit6=V, bit7=N" (R26). -/
def Flag.bit : Flag → Nat
  | .c => 0
  | .z => 1
  | .i => 2
  | .d => 3
  | .b => 4
  | .u => 5
  | .v => 6
  | .n => 7

/-- One flag of a status byte. -/
def getFlag (p : Byte) (f : Flag) : Bool := p.getLsbD f.bit

/-- A status byte with one flag written and the other seven bits kept. -/
def setFlag (p : Byte) (f : Flag) (on : Bool) : Byte :=
  if on then p ||| (1#8 <<< f.bit) else p &&& ~~~(1#8 <<< f.bit)

/-- `updateZeroFlag(v)` (R30). -/
def updateZero (v p : Byte) : Byte := setFlag p .z (v == 0)

/-- `updateNegativeFlag(v)` (R31). -/
def updateNegative (v p : Byte) : Byte := setFlag p .n (v.getLsbD 7)

/-- `setZN(v)`: R30, then R31. -/
def setZN (v p : Byte) : Byte := updateNegative v (updateZero v p)

/-- `compare(r, m)` (42_logic_compare.md): C is the unsigned `r >= m`, Z is `r == m`, N is bit 7 of `r -8 m`. -/
def compareFlags (r m p : Byte) : Byte :=
  updateNegative (r - m) (setFlag (setFlag p .c (decide (m.toNat ≤ r.toNat))) .z (r == m))

/-- The flags of BIT (R153): Z from `A & m`, N and V from bits 7 and 6 of `m`. -/
def bitTestFlags (a m p : Byte) : Byte :=
  setFlag (setFlag (setFlag p .z ((a &&& m) == 0)) .n (m.getLsbD 7)) .v (m.getLsbD 6)

/-- A result byte with the carry and overflow that go with it. -/
structure AluResult where
  value : Byte
  carry : Bool
  overflow : Bool
  deriving DecidableEq, Repr

/-- The sum of ADC (R170): an exact integer, reduced modulo 256; carry is `s > 255`; overflow is
`((a ^ r) & (m ^ r) & 0x80) != 0` on the old `a`. The D flag plays no part (R172). -/
def addWithCarry (a m : Byte) (carry : Bool) : AluResult :=
  let s := a.toNat + m.toNat + carry.toNat
  let r := BitVec.ofNat 8 s
  { value := r, carry := decide (255 < s), overflow := ((a ^^^ r) &&& (m ^^^ r) &&& 0x80) != 0 }

/-- The difference of SBC (R171): "ADC of the complemented operand, bit for bit". -/
def subtractWithBorrow (a m : Byte) (carry : Bool) : AluResult := addWithCarry a (m ^^^ 0xFF) carry

/-- C, V, then Z and N of a result (R170, R171). -/
def aluFlags (r : AluResult) (p : Byte) : Byte :=
  setZN r.value (setFlag (setFlag p .c r.carry) .v r.overflow)

/-- A shifted byte and the bit that was shifted out. -/
structure ShiftResult where
  value : Byte
  carry : Bool
  deriving DecidableEq, Repr

/-- One place to the left with `low` coming in at bit 0 (ASL: 0, ROL: the old C; R191, R193). -/
def shiftLeft (m : Byte) (low : Bool) : ShiftResult :=
  { value := (m <<< 1) ||| (if low then 0x01 else 0x00), carry := m.getLsbD 7 }

/-- One place to the right with `high` coming in at bit 7 (LSR: 0, ROR: the old C; R192, R194). -/
def shiftRight (m : Byte) (high : Bool) : ShiftResult :=
  { value := (m >>> 1) ||| (if high then 0x80 else 0x00), carry := m.getLsbD 0 }

/-- C from the bit shifted out, Z and N from the result (R190; for LSR, N comes out 0, R192). -/
def shiftFlags (r : ShiftResult) (p : Byte) : Byte := setZN r.value (setFlag p .c r.carry)

end Sys2Proof.Machine
end

