-- ==== Sys2Proof/Machine/Ops.lean ====
section
/-! DEFINITION. The named operations over memory, registers, the stack and the program counter, and the software
interrupt with its return (spec 20_memory.md, 45_stack.md, 60_exceptions.md R253 to R255). -/

namespace Sys2Proof.Machine

/-- What a cell never written reads as (R52). -/
def unlistedByte : Byte := 0x00

/-- The byte at an address: `MemRead` (R51). -/
def Memory.read : Memory → Nat → Byte
  | [], _ => unlistedByte
  | (b, v) :: m, a => if b = a then v else Memory.read m a

/-- The memory with the cell at `a` unlisted. -/
def Memory.remove (m : Memory) (a : Nat) : Memory := m.filter fun c => c.1 != a

/-- List the cell `(a, v)` before the first higher address. -/
def Memory.insert : Memory → Nat → Byte → Memory
  | [], a, v => [(a, v)]
  | (b, w) :: m, a, v => if a < b then (a, v) :: (b, w) :: m else (b, w) :: Memory.insert m a v

/-- `MemWrite` (R51): `v` becomes the byte at `a`, no other address changes, and the canonical form is kept. -/
def Memory.write (m : Memory) (a : Nat) (v : Byte) : Memory :=
  if v = unlistedByte then m.remove a else (m.remove a).insert a v

/-- The canonical form: addresses of the 64 KiB space, strictly rising, no cell equal to what an unlisted one reads
as. -/
def Memory.wf : Memory → Bool
  | [] => true
  | (a, v) :: m => decide (a < 65536) && v != unlistedByte && m.all (fun c => decide (a < c.1)) && Memory.wf m

namespace State

/-- `M[a]`, a read of the one address space (R50, R51); no address is out of range (R53). -/
def read (s : State) (a : Word) : Byte := s.mem.read a.toNat

/-- `M[a] <- v` (R51). -/
def write (s : State) (a : Word) (v : Byte) : State := { s with mem := s.mem.write a.toNat v }

/-- `A <- v` -/
def setA (s : State) (v : Byte) : State := { s with a := v }

/-- `X <- v` -/
def setX (s : State) (v : Byte) : State := { s with x := v }

/-- `Y <- v` -/
def setY (s : State) (v : Byte) : State := { s with y := v }

/-- `SP <- v` -/
def setSp (s : State) (v : Byte) : State := { s with sp := v }

/-- `PC <- w` -/
def setPc (s : State) (w : Word) : State := { s with pc := w }

/-- `P <- v`, all eight bits; `loadFrom(v)` (R28) -/
def setP (s : State) (v : Byte) : State := { s with p := v }

/-- `dump()`: the byte P itself (R27). -/
def dump (s : State) : Byte := s.p

/-- A register by its name. -/
def reg (s : State) : Reg → Byte
  | .a => s.a
  | .x => s.x
  | .y => s.y
  | .sp => s.sp

/-- Write a register by its name. None is hardwired (R21 to R23, R25). -/
def setReg (s : State) (r : Reg) (v : Byte) : State :=
  match r with
  | .a => s.setA v
  | .x => s.setX v
  | .y => s.setY v
  | .sp => s.setSp v

/-- One flag of P: a view of the packed byte (R32). -/
def flag (s : State) (f : Flag) : Bool := getFlag s.p f

/-- Write one flag of P. -/
def putFlag (s : State) (f : Flag) (on : Bool) : State := s.setP (setFlag s.p f on)

/-- `setZN(v)` on the live P (R30, R31). -/
def zn (s : State) (v : Byte) : State := s.setP (setZN v s.p)

/-- `PC <- P0 +16 L` (R101). -/
def advance (s : State) (len : Nat) : State := s.setPc (s.pc + BitVec.ofNat 16 len)

/-- The stack location `0x0100 + SP` (R25). -/
def stackTop (s : State) : Word := Config.stackAddress + zext16 s.sp

/-- `push(v)`: write, then decrement; SP wraps in its page (R200). -/
def push (s : State) (v : Byte) : State := (s.write s.stackTop v).setSp (s.sp - 1)

/-- The state after `pull()`: SP incremented, memory untouched (R201). -/
def pulled (s : State) : State := s.setSp (s.sp + 1)

/-- The byte `pull()` returns: read after the increment (R201). -/
def pullByte (s : State) : Byte := s.pulled.read s.pulled.stackTop

/-- Push a 16-bit value, high byte first (R202). UNVERIFIED (log 5): the order is the spec's decision D3. -/
def pushWord (s : State) (w : Word) : State := (s.push (hi w)).push (lo w)

/-- The 16-bit value pulled low byte first (R202). -/
def pullWord (s : State) : Word := word s.pullByte s.pulled.pullByte

/-- The state after pulling a 16-bit value. -/
def pulledWord (s : State) : State := s.pulled.pulled

/-- The address in the BRK vector, low byte first (R54, R58). -/
def brkTarget (s : State) : Word := word (s.read Config.brkVectorLow) (s.read Config.brkVectorHigh)

/-- TAKING THE SOFTWARE INTERRUPT (R223, R253): PC + 2 on the stack, B and I set, P on the stack, B cleared again, PC
from the vector. UNVERIFIED (log 5): the skip of two and I before the push of P are the spec's decisions D4 and D5. -/
def softwareInterrupt (s : State) : State :=
  let marked := (s.putFlag .b true).pushWord (s.pc + 2)
  let masked := marked.putFlag .i true
  let saved := (masked.push masked.dump).putFlag .b false
  saved.setPc saved.brkTarget

/-- RETURN FROM INTERRUPT (R213, R255): P, all eight bits, then PC low and high; nothing is added to it. -/
def interruptReturn (s : State) : State :=
  let restored := s.pulled.setP s.pullByte
  restored.pulledWord.setPc restored.pullWord

/-- The bytes a step decodes: the opcode at P0 and the two bytes after it, addresses modulo 65536 (R81, R100). Reads
have no side effect, so reading more than the instruction has is no difference (R57, R116; log 13). -/
def fetchBytes (s : State) : List Byte := [s.read s.pc, s.read (s.pc + 1), s.read (s.pc + 2)]

end State

end Sys2Proof.Machine
end

