-- ==== Sys2Proof/Machine/Operands.lean ====
section
/-! DEFINITION. The address-mode resolver (spec 40_step_and_addressing.md R102 to R116) and the access to an operand
(R118). -/

namespace Sys2Proof.Machine

/-- The length `L` of an instruction with this operand: 1 plus its operand bytes (30_encoding.md R82). -/
def operandLength (m : Operand) : Nat :=
  match m with
  | .imp | .acc => 1
  | .imm _ | .zp _ | .zpx _ | .zpy _ | .indx _ | .indy _ | .rel _ => 2
  | .abs _ | .absx _ | .absy _ | .ind _ => 3

/-- What the resolver returns (R102). Accumulator and Implied have no address at all, as 93_implementation_defined.md
U7 asks, in place of the sentinel of R114; only Relative has a `relativeAddress`. `cyclesSpent` is left out (R117; log
15). -/
structure Decoded where
  address : Option Word
  relativeAddress : Option Word
  deriving DecidableEq, Repr

/-- A resolved operand with an address. -/
def Decoded.at (w : Word) : Decoded := { address := some w, relativeAddress := none }

/-- `off16` of a relative operand byte under a value of `REL_DECODE` (R86). -/
def relOffsetUnder (mode : RelDecode) (b : Byte) : Word :=
  match mode with
  | .excess128 => zext16 b - 128
  | .twosComplement => sext16 b

/-- `off16` of a relative operand byte (R86, R113), under `Config.relDecode`. -/
def relOffset (b : Byte) : Word := relOffsetUnder Config.relDecode b

/-- The word in page zero at `z`; the high byte comes from `z +8 1`, inside page zero (R111, R112). UNVERIFIED (log
9): for PostIndexedIndirect at 0xFF the wrap is the spec's decision D9. -/
def zeroPagePointer (s : State) (z : Byte) : Word := word (s.read (zext16 z)) (s.read (zext16 (z + 1)))

/-- The address of the high byte of an indirect jump's target: the page-wrap bug, mandatory (R110). -/
def indirectHigh (ptr : Word) : Word := if lo ptr = 0xFF then ptr &&& 0xFF00 else ptr + 1

/-- The address resolver (R103 to R115). It reads memory and X or Y, and changes nothing. -/
def resolve (m : Operand) (s : State) : Decoded :=
  match m with
  | .imm _ => .at (s.pc + 1)
  | .zp a => .at (zext16 a)
  | .zpx a => .at (zext16 (a + s.x))
  | .zpy a => .at (zext16 (a + s.y))
  | .abs w => .at w
  | .absx w => .at (w + zext16 s.x)
  | .absy w => .at (w + zext16 s.y)
  | .ind w => .at (word (s.read w) (s.read (indirectHigh w)))
  | .indx a => .at (zeroPagePointer s (a + s.x))
  | .indy a => .at (zeroPagePointer s a + zext16 s.y)
  | .rel o => { address := some (s.pc + 1 + relOffset o), relativeAddress := some (relOffset o) }
  | .acc | .imp => { address := none, relativeAddress := none }

/-- The operand's byte: `M[addr]`, or A in Accumulator mode (R118). DEDUCED (log 12): an Immediate operand is the
fetched byte, which is `M[P0 +16 1]` (R103). -/
def operandValue (m : Operand) (s : State) : Option Byte :=
  match m with
  | .imm v => some v
  | .acc => some s.a
  | m => (resolve m s).address.map s.read

/-- `operand <- v`: a write to A in Accumulator mode, else to the resolved address (R118). An Immediate operand is never
written: no store and no read-modify-write instruction has that form (R118). -/
def writeOperand (m : Operand) (v : Byte) (s : State) : Option State :=
  match m with
  | .imm _ => none
  | .acc => some (s.setA v)
  | m => (resolve m s).address.map fun w => s.write w v

/-- Run a step that needs the operand's byte. Without one the operation is a contract violation (R121, R252), which no
instruction of the table meets. -/
def withValue (m : Operand) (s : State) (k : Byte → State) : Host.Outcome State Fault Refusal :=
  match operandValue m s with
  | some v => .next (k v)
  | none => .fault .contractViolation

/-- Run a step that needs the operand's address. -/
def withAddress (m : Operand) (s : State) (k : Word → State) : Host.Outcome State Fault Refusal :=
  match (resolve m s).address with
  | some w => .next (k w)
  | none => .fault .contractViolation

/-- Run a step that needs the branch offset. -/
def withOffset (m : Operand) (s : State) (k : Word → State) : Host.Outcome State Fault Refusal :=
  match (resolve m s).relativeAddress with
  | some off => .next (k off)
  | none => .fault .contractViolation

/-- A read-modify-write (R56, R118, R190): one read, then one write of the new byte to the same operand; `f` gives the
new byte and the new P from the old byte. -/
def modifyOperand (m : Operand) (s : State) (f : Byte → Byte × Byte) : Host.Outcome State Fault Refusal :=
  match operandValue m s with
  | none => .fault .contractViolation
  | some v =>
    match writeOperand m (f v).1 s with
    | none => .fault .contractViolation
    | some t => .next ((t.setP (f v).2).advance (operandLength m))

end Sys2Proof.Machine
end

