-- ==== Sys2Proof/Machine/Arith.lean ====
section
/-! DEFINITION. Add, subtract, increment, decrement (spec 43_arith_incdec.md R170 to R179): the shared operations of
the family, then one meaning per row of the opcode table. UNVERIFIED (log 4): the semantics of ADC, SBC are the spec's
general knowledge (D11). -/

namespace Sys2Proof.Machine

/-- Add or subtract the operand and the old C into A; C, V, Z, N (R170, R171). D is not read: `DECIMAL = Ignored` (R172,
log 10). -/
def arithmetic (f : Byte → Byte → Bool → AluResult) (m : Operand) (s : State) : Host.Outcome State Fault Refusal :=
  withValue m s fun v =>
    ((s.setA (f s.a v (s.flag .c)).value).setP (aluFlags (f s.a v (s.flag .c)) s.p)).advance (operandLength m)

/-- Add a byte to a memory cell, wrapping; Z and N, no carry (R173, R174). -/
def adjustMemory (delta : Byte) (m : Operand) (s : State) : Host.Outcome State Fault Refusal :=
  modifyOperand m s fun v => (v + delta, setZN (v + delta) s.p)

/-- Add a byte to an index register, wrapping; Z and N, no carry (R175 to R178). -/
def adjustReg (r : Reg) (delta : Byte) (s : State) : Host.Outcome State Fault Refusal :=
  .next (((s.setReg r (s.reg r + delta)).zn (s.reg r + delta)).advance 1)

/-- ADC, Immediate: add memory to accumulator with carry (R170). -/
def execAdcImm (v : Byte) (s : State) : Host.Outcome State Fault Refusal := arithmetic addWithCarry (.imm v) s

/-- ADC, ZeroPage: add memory to accumulator with carry (R170). -/
def execAdcZp (a : Byte) (s : State) : Host.Outcome State Fault Refusal := arithmetic addWithCarry (.zp a) s

/-- ADC, ZeroPageX: add memory to accumulator with carry (R170). -/
def execAdcZpx (a : Byte) (s : State) : Host.Outcome State Fault Refusal := arithmetic addWithCarry (.zpx a) s

/-- ADC, Absolute: add memory to accumulator with carry (R170). -/
def execAdcAbs (w : Word) (s : State) : Host.Outcome State Fault Refusal := arithmetic addWithCarry (.abs w) s

/-- ADC, AbsoluteXIndexed: add memory to accumulator with carry (R170). -/
def execAdcAbsx (w : Word) (s : State) : Host.Outcome State Fault Refusal := arithmetic addWithCarry (.absx w) s

/-- ADC, AbsoluteYIndexed: add memory to accumulator with carry (R170). -/
def execAdcAbsy (w : Word) (s : State) : Host.Outcome State Fault Refusal := arithmetic addWithCarry (.absy w) s

/-- ADC, PreIndexedIndirect: add memory to accumulator with carry (R170). -/
def execAdcIndx (a : Byte) (s : State) : Host.Outcome State Fault Refusal := arithmetic addWithCarry (.indx a) s

/-- ADC, PostIndexedIndirect: add memory to accumulator with carry (R170). -/
def execAdcIndy (a : Byte) (s : State) : Host.Outcome State Fault Refusal := arithmetic addWithCarry (.indy a) s

/-- SBC, Immediate: subtract memory from accumulator with borrow (R171). -/
def execSbcImm (v : Byte) (s : State) : Host.Outcome State Fault Refusal := arithmetic subtractWithBorrow (.imm v) s

/-- SBC, ZeroPage: subtract memory from accumulator with borrow (R171). -/
def execSbcZp (a : Byte) (s : State) : Host.Outcome State Fault Refusal := arithmetic subtractWithBorrow (.zp a) s

/-- SBC, ZeroPageX: subtract memory from accumulator with borrow (R171). -/
def execSbcZpx (a : Byte) (s : State) : Host.Outcome State Fault Refusal := arithmetic subtractWithBorrow (.zpx a) s

/-- SBC, Absolute: subtract memory from accumulator with borrow (R171). -/
def execSbcAbs (w : Word) (s : State) : Host.Outcome State Fault Refusal := arithmetic subtractWithBorrow (.abs w) s

/-- SBC, AbsoluteXIndexed: subtract memory from accumulator with borrow (R171). -/
def execSbcAbsx (w : Word) (s : State) : Host.Outcome State Fault Refusal := arithmetic subtractWithBorrow (.absx w) s

/-- SBC, AbsoluteYIndexed: subtract memory from accumulator with borrow (R171). -/
def execSbcAbsy (w : Word) (s : State) : Host.Outcome State Fault Refusal := arithmetic subtractWithBorrow (.absy w) s

/-- SBC, PreIndexedIndirect: subtract memory from accumulator with borrow (R171). -/
def execSbcIndx (a : Byte) (s : State) : Host.Outcome State Fault Refusal := arithmetic subtractWithBorrow (.indx a) s

/-- SBC, PostIndexedIndirect: subtract memory from accumulator with borrow (R171). -/
def execSbcIndy (a : Byte) (s : State) : Host.Outcome State Fault Refusal := arithmetic subtractWithBorrow (.indy a) s

/-- INC, ZeroPage: increment memory (R173). -/
def execIncZp (a : Byte) (s : State) : Host.Outcome State Fault Refusal := adjustMemory 1 (.zp a) s

/-- INC, ZeroPageX: increment memory (R173). -/
def execIncZpx (a : Byte) (s : State) : Host.Outcome State Fault Refusal := adjustMemory 1 (.zpx a) s

/-- INC, Absolute: increment memory (R173). -/
def execIncAbs (w : Word) (s : State) : Host.Outcome State Fault Refusal := adjustMemory 1 (.abs w) s

/-- INC, AbsoluteXIndexed: increment memory (R173). -/
def execIncAbsx (w : Word) (s : State) : Host.Outcome State Fault Refusal := adjustMemory 1 (.absx w) s

/-- DEC, ZeroPage: decrement memory (R174). -/
def execDecZp (a : Byte) (s : State) : Host.Outcome State Fault Refusal := adjustMemory (-1) (.zp a) s

/-- DEC, ZeroPageX: decrement memory (R174). -/
def execDecZpx (a : Byte) (s : State) : Host.Outcome State Fault Refusal := adjustMemory (-1) (.zpx a) s

/-- DEC, Absolute: decrement memory (R174). -/
def execDecAbs (w : Word) (s : State) : Host.Outcome State Fault Refusal := adjustMemory (-1) (.abs w) s

/-- DEC, AbsoluteXIndexed: decrement memory (R174). -/
def execDecAbsx (w : Word) (s : State) : Host.Outcome State Fault Refusal := adjustMemory (-1) (.absx w) s

/-- INX: increment X (R175). -/
def execInx (s : State) : Host.Outcome State Fault Refusal := adjustReg .x 1 s

/-- INY: increment Y (R176). -/
def execIny (s : State) : Host.Outcome State Fault Refusal := adjustReg .y 1 s

/-- DEX: decrement X (R177). -/
def execDex (s : State) : Host.Outcome State Fault Refusal := adjustReg .x (-1) s

/-- DEY: decrement Y (R178). -/
def execDey (s : State) : Host.Outcome State Fault Refusal := adjustReg .y (-1) s

end Sys2Proof.Machine
end

