-- ==== Sys2Proof/Machine/Control.lean ====
section
/-! DEFINITION. Control transfer, BRK and NOP (spec 46_control.md R210 to R224): the shared operations of the family,
then one meaning per row of the opcode table. -/

namespace Sys2Proof.Machine

/-- Jump: PC is the resolved address (R210). -/
def jump (m : Operand) (s : State) : Host.Outcome State Fault Refusal := withAddress m s fun w => s.setPc w

/-- Call: push `P0 +16 2`, high byte first, then jump. The address is resolved before the pushes (R211, 20_memory.md
R62). -/
def call (m : Operand) (s : State) : Host.Outcome State Fault Refusal :=
  withAddress m s fun w => (s.pushWord (s.pc + 2)).setPc w

/-- Return: pull a word, low byte first, and go to the address after it (R212). -/
def subroutineReturn (s : State) : Host.Outcome State Fault Refusal := .next (s.pulledWord.setPc (s.pullWord + 1))

/-- A branch taken when a flag has a value: PC is `P0 +16 2`, plus the offset if it is taken (R214). -/
def branch (f : Flag) (on : Bool) (m : Operand) (s : State) : Host.Outcome State Fault Refusal :=
  withOffset m s fun off => if s.flag f = on then s.setPc (s.pc + 2 + off) else s.setPc (s.pc + 2)

/-- JMP, Absolute: jump (R210). -/
def execJmpAbs (w : Word) (s : State) : Host.Outcome State Fault Refusal := jump (.abs w) s

/-- JMP, Indirect: jump (R210). -/
def execJmpInd (w : Word) (s : State) : Host.Outcome State Fault Refusal := jump (.ind w) s

/-- JSR, Absolute: jump to subroutine (R211). -/
def execJsr (w : Word) (s : State) : Host.Outcome State Fault Refusal := call (.abs w) s

/-- RTS: return from subroutine (R212). -/
def execRts (s : State) : Host.Outcome State Fault Refusal := subroutineReturn s

/-- RTI: return from interrupt (R213). -/
def execRti (s : State) : Host.Outcome State Fault Refusal := .next s.interruptReturn

/-- BCC, Relative: branch if carry clear (R215). -/
def execBcc (o : Byte) (s : State) : Host.Outcome State Fault Refusal := branch .c false (.rel o) s

/-- BCS, Relative: branch if carry set (R216). -/
def execBcs (o : Byte) (s : State) : Host.Outcome State Fault Refusal := branch .c true (.rel o) s

/-- BEQ, Relative: branch if equal (R217). -/
def execBeq (o : Byte) (s : State) : Host.Outcome State Fault Refusal := branch .z true (.rel o) s

/-- BNE, Relative: branch if not equal (R218). -/
def execBne (o : Byte) (s : State) : Host.Outcome State Fault Refusal := branch .z false (.rel o) s

/-- BPL, Relative: branch if plus (R219). -/
def execBpl (o : Byte) (s : State) : Host.Outcome State Fault Refusal := branch .n false (.rel o) s

/-- BMI, Relative: branch if minus (R220). -/
def execBmi (o : Byte) (s : State) : Host.Outcome State Fault Refusal := branch .n true (.rel o) s

/-- BVC, Relative: branch if overflow clear (R221). -/
def execBvc (o : Byte) (s : State) : Host.Outcome State Fault Refusal := branch .v false (.rel o) s

/-- BVS, Relative: branch if overflow set (R222). -/
def execBvs (o : Byte) (s : State) : Host.Outcome State Fault Refusal := branch .v true (.rel o) s

/-- BRK: software interrupt (R223). -/
def execBrk (s : State) : Host.Outcome State Fault Refusal := .next s.softwareInterrupt

/-- NOP: no operation (R224). -/
def execNop (s : State) : Host.Outcome State Fault Refusal := .next (s.advance 1)

end Sys2Proof.Machine
end

