-- ==== Sys2Proof/Machine/FlagOps.lean ====
section
/-! DEFINITION. Flag set and clear instructions (spec 47_flags.md R240 to R246): the shared operations of the family,
then one meaning per row of the opcode table. UNVERIFIED (log 4): the semantics of SEC, SED, SEI are the spec's
general knowledge (D11). -/

namespace Sys2Proof.Machine

/-- Write one flag; no other effect (R240 to R246). -/
def writeFlag (f : Flag) (on : Bool) (s : State) : Host.Outcome State Fault Refusal :=
  .next ((s.putFlag f on).advance 1)

/-- CLC: clear carry (R240). -/
def execClc (s : State) : Host.Outcome State Fault Refusal := writeFlag .c false s

/-- CLD: clear decimal (R241). -/
def execCld (s : State) : Host.Outcome State Fault Refusal := writeFlag .d false s

/-- CLI: clear interrupt-disable (R242). -/
def execCli (s : State) : Host.Outcome State Fault Refusal := writeFlag .i false s

/-- CLV: clear overflow (R243). -/
def execClv (s : State) : Host.Outcome State Fault Refusal := writeFlag .v false s

/-- SEC: set carry (R244). -/
def execSec (s : State) : Host.Outcome State Fault Refusal := writeFlag .c true s

/-- SED: set decimal (R245). -/
def execSed (s : State) : Host.Outcome State Fault Refusal := writeFlag .d true s

/-- SEI: set interrupt-disable (R246). -/
def execSei (s : State) : Host.Outcome State Fault Refusal := writeFlag .i true s

end Sys2Proof.Machine
end

