-- ==== Sys2Proof/Machine/LoadStore.lean ====
section
/-! DEFINITION. Loads, stores and register transfers (spec 41_load_store_transfer.md R130 to R141): the shared
operations of the family, then one meaning per row of the opcode table. UNVERIFIED (log 4): the semantics of STA, STX,
STY, TAX, TAY, TXA, TYA, TSX, TXS are the spec's general knowledge (D11). -/

namespace Sys2Proof.Machine

/-- Load a register from the operand; Z and N from the byte (R130 to R132). -/
def load (r : Reg) (m : Operand) (s : State) : Host.Outcome State Fault Refusal :=
  withValue m s fun v => ((s.setReg r v).zn v).advance (operandLength m)

/-- Store a register at the resolved address; no flag, and the location is not read (R133 to R135). -/
def store (r : Reg) (m : Operand) (s : State) : Host.Outcome State Fault Refusal :=
  withAddress m s fun w => (s.write w (s.reg r)).advance (operandLength m)

/-- Copy a register to another; Z and N from the value (R136 to R140). -/
def transfer (src dst : Reg) (s : State) : Host.Outcome State Fault Refusal :=
  .next (((s.setReg dst (s.reg src)).zn (s.reg src)).advance 1)

/-- Copy X to SP, "the one transfer that sets no flag" (R141). -/
def transferToStack (s : State) : Host.Outcome State Fault Refusal := .next ((s.setSp s.x).advance 1)

/-- LDA, Immediate: load accumulator (R130). -/
def execLdaImm (v : Byte) (s : State) : Host.Outcome State Fault Refusal := load .a (.imm v) s

/-- LDA, ZeroPage: load accumulator (R130). -/
def execLdaZp (a : Byte) (s : State) : Host.Outcome State Fault Refusal := load .a (.zp a) s

/-- LDA, ZeroPageX: load accumulator (R130). -/
def execLdaZpx (a : Byte) (s : State) : Host.Outcome State Fault Refusal := load .a (.zpx a) s

/-- LDA, Absolute: load accumulator (R130). -/
def execLdaAbs (w : Word) (s : State) : Host.Outcome State Fault Refusal := load .a (.abs w) s

/-- LDA, AbsoluteXIndexed: load accumulator (R130). -/
def execLdaAbsx (w : Word) (s : State) : Host.Outcome State Fault Refusal := load .a (.absx w) s

/-- LDA, AbsoluteYIndexed: load accumulator (R130). -/
def execLdaAbsy (w : Word) (s : State) : Host.Outcome State Fault Refusal := load .a (.absy w) s

/-- LDA, PreIndexedIndirect: load accumulator (R130). -/
def execLdaIndx (a : Byte) (s : State) : Host.Outcome State Fault Refusal := load .a (.indx a) s

/-- LDA, PostIndexedIndirect: load accumulator (R130). -/
def execLdaIndy (a : Byte) (s : State) : Host.Outcome State Fault Refusal := load .a (.indy a) s

/-- LDX, Immediate: load index X (R131). -/
def execLdxImm (v : Byte) (s : State) : Host.Outcome State Fault Refusal := load .x (.imm v) s

/-- LDX, ZeroPage: load index X (R131). -/
def execLdxZp (a : Byte) (s : State) : Host.Outcome State Fault Refusal := load .x (.zp a) s

/-- LDX, ZeroPageY: load index X (R131). -/
def execLdxZpy (a : Byte) (s : State) : Host.Outcome State Fault Refusal := load .x (.zpy a) s

/-- LDX, Absolute: load index X (R131). -/
def execLdxAbs (w : Word) (s : State) : Host.Outcome State Fault Refusal := load .x (.abs w) s

/-- LDX, AbsoluteYIndexed: load index X (R131). -/
def execLdxAbsy (w : Word) (s : State) : Host.Outcome State Fault Refusal := load .x (.absy w) s

/-- LDY, Immediate: load index Y (R132). -/
def execLdyImm (v : Byte) (s : State) : Host.Outcome State Fault Refusal := load .y (.imm v) s

/-- LDY, ZeroPage: load index Y (R132). -/
def execLdyZp (a : Byte) (s : State) : Host.Outcome State Fault Refusal := load .y (.zp a) s

/-- LDY, ZeroPageX: load index Y (R132). -/
def execLdyZpx (a : Byte) (s : State) : Host.Outcome State Fault Refusal := load .y (.zpx a) s

/-- LDY, Absolute: load index Y (R132). -/
def execLdyAbs (w : Word) (s : State) : Host.Outcome State Fault Refusal := load .y (.abs w) s

/-- LDY, AbsoluteXIndexed: load index Y (R132). -/
def execLdyAbsx (w : Word) (s : State) : Host.Outcome State Fault Refusal := load .y (.absx w) s

/-- STA, ZeroPage: store accumulator (R133). -/
def execStaZp (a : Byte) (s : State) : Host.Outcome State Fault Refusal := store .a (.zp a) s

/-- STA, ZeroPageX: store accumulator (R133). -/
def execStaZpx (a : Byte) (s : State) : Host.Outcome State Fault Refusal := store .a (.zpx a) s

/-- STA, Absolute: store accumulator (R133). -/
def execStaAbs (w : Word) (s : State) : Host.Outcome State Fault Refusal := store .a (.abs w) s

/-- STA, AbsoluteXIndexed: store accumulator (R133). -/
def execStaAbsx (w : Word) (s : State) : Host.Outcome State Fault Refusal := store .a (.absx w) s

/-- STA, AbsoluteYIndexed: store accumulator (R133). -/
def execStaAbsy (w : Word) (s : State) : Host.Outcome State Fault Refusal := store .a (.absy w) s

/-- STA, PreIndexedIndirect: store accumulator (R133). -/
def execStaIndx (a : Byte) (s : State) : Host.Outcome State Fault Refusal := store .a (.indx a) s

/-- STA, PostIndexedIndirect: store accumulator (R133). -/
def execStaIndy (a : Byte) (s : State) : Host.Outcome State Fault Refusal := store .a (.indy a) s

/-- STX, ZeroPage: store index X (R134). -/
def execStxZp (a : Byte) (s : State) : Host.Outcome State Fault Refusal := store .x (.zp a) s

/-- STX, ZeroPageY: store index X (R134). -/
def execStxZpy (a : Byte) (s : State) : Host.Outcome State Fault Refusal := store .x (.zpy a) s

/-- STX, Absolute: store index X (R134). -/
def execStxAbs (w : Word) (s : State) : Host.Outcome State Fault Refusal := store .x (.abs w) s

/-- STY, ZeroPage: store index Y (R135). -/
def execStyZp (a : Byte) (s : State) : Host.Outcome State Fault Refusal := store .y (.zp a) s

/-- STY, ZeroPageX: store index Y (R135). -/
def execStyZpx (a : Byte) (s : State) : Host.Outcome State Fault Refusal := store .y (.zpx a) s

/-- STY, Absolute: store index Y (R135). -/
def execStyAbs (w : Word) (s : State) : Host.Outcome State Fault Refusal := store .y (.abs w) s

/-- TAX: transfer A to X (R136). -/
def execTax (s : State) : Host.Outcome State Fault Refusal := transfer .a .x s

/-- TAY: transfer A to Y (R137). -/
def execTay (s : State) : Host.Outcome State Fault Refusal := transfer .a .y s

/-- TXA: transfer X to A (R138). -/
def execTxa (s : State) : Host.Outcome State Fault Refusal := transfer .x .a s

/-- TYA: transfer Y to A (R139). -/
def execTya (s : State) : Host.Outcome State Fault Refusal := transfer .y .a s

/-- TSX: transfer SP to X (R140). -/
def execTsx (s : State) : Host.Outcome State Fault Refusal := transfer .sp .x s

/-- TXS: transfer X to SP (R141). -/
def execTxs (s : State) : Host.Outcome State Fault Refusal := transferToStack s

end Sys2Proof.Machine
end

