-- ==== Sys2Proof/Machine/Logic.lean ====
section
/-! DEFINITION. Logical and compare instructions (spec 42_logic_compare.md R150 to R156): the shared operations of the
family, then one meaning per row of the opcode table. UNVERIFIED (log 4): the semantics of EOR, BIT are the spec's
general knowledge (D11). -/

namespace Sys2Proof.Machine

/-- A bitwise operation of A and the operand into A; Z and N from the new A (R150 to R152). -/
def logic (f : Byte → Byte → Byte) (m : Operand) (s : State) : Host.Outcome State Fault Refusal :=
  withValue m s fun v => ((s.setA (f s.a v)).zn (f s.a v)).advance (operandLength m)

/-- Bit test: flags only (R153). -/
def bitTest (m : Operand) (s : State) : Host.Outcome State Fault Refusal :=
  withValue m s fun v => (s.setP (bitTestFlags s.a v s.p)).advance (operandLength m)

/-- Compare a register with the operand: flags only, V kept (R154 to R156). -/
def compareReg (r : Reg) (m : Operand) (s : State) : Host.Outcome State Fault Refusal :=
  withValue m s fun v => (s.setP (compareFlags (s.reg r) v s.p)).advance (operandLength m)

/-- AND, Immediate: bitwise AND with accumulator (R150). -/
def execAndImm (v : Byte) (s : State) : Host.Outcome State Fault Refusal := logic (· &&& ·) (.imm v) s

/-- AND, ZeroPage: bitwise AND with accumulator (R150). -/
def execAndZp (a : Byte) (s : State) : Host.Outcome State Fault Refusal := logic (· &&& ·) (.zp a) s

/-- AND, ZeroPageX: bitwise AND with accumulator (R150). -/
def execAndZpx (a : Byte) (s : State) : Host.Outcome State Fault Refusal := logic (· &&& ·) (.zpx a) s

/-- AND, Absolute: bitwise AND with accumulator (R150). -/
def execAndAbs (w : Word) (s : State) : Host.Outcome State Fault Refusal := logic (· &&& ·) (.abs w) s

/-- AND, AbsoluteXIndexed: bitwise AND with accumulator (R150). -/
def execAndAbsx (w : Word) (s : State) : Host.Outcome State Fault Refusal := logic (· &&& ·) (.absx w) s

/-- AND, AbsoluteYIndexed: bitwise AND with accumulator (R150). -/
def execAndAbsy (w : Word) (s : State) : Host.Outcome State Fault Refusal := logic (· &&& ·) (.absy w) s

/-- AND, PreIndexedIndirect: bitwise AND with accumulator (R150). -/
def execAndIndx (a : Byte) (s : State) : Host.Outcome State Fault Refusal := logic (· &&& ·) (.indx a) s

/-- AND, PostIndexedIndirect: bitwise AND with accumulator (R150). -/
def execAndIndy (a : Byte) (s : State) : Host.Outcome State Fault Refusal := logic (· &&& ·) (.indy a) s

/-- ORA, Immediate: bitwise OR with accumulator (R151). -/
def execOraImm (v : Byte) (s : State) : Host.Outcome State Fault Refusal := logic (· ||| ·) (.imm v) s

/-- ORA, ZeroPage: bitwise OR with accumulator (R151). -/
def execOraZp (a : Byte) (s : State) : Host.Outcome State Fault Refusal := logic (· ||| ·) (.zp a) s

/-- ORA, ZeroPageX: bitwise OR with accumulator (R151). -/
def execOraZpx (a : Byte) (s : State) : Host.Outcome State Fault Refusal := logic (· ||| ·) (.zpx a) s

/-- ORA, Absolute: bitwise OR with accumulator (R151). -/
def execOraAbs (w : Word) (s : State) : Host.Outcome State Fault Refusal := logic (· ||| ·) (.abs w) s

/-- ORA, AbsoluteXIndexed: bitwise OR with accumulator (R151). -/
def execOraAbsx (w : Word) (s : State) : Host.Outcome State Fault Refusal := logic (· ||| ·) (.absx w) s

/-- ORA, AbsoluteYIndexed: bitwise OR with accumulator (R151). -/
def execOraAbsy (w : Word) (s : State) : Host.Outcome State Fault Refusal := logic (· ||| ·) (.absy w) s

/-- ORA, PreIndexedIndirect: bitwise OR with accumulator (R151). -/
def execOraIndx (a : Byte) (s : State) : Host.Outcome State Fault Refusal := logic (· ||| ·) (.indx a) s

/-- ORA, PostIndexedIndirect: bitwise OR with accumulator (R151). -/
def execOraIndy (a : Byte) (s : State) : Host.Outcome State Fault Refusal := logic (· ||| ·) (.indy a) s

/-- EOR, Immediate: bitwise exclusive OR with accumulator (R152). -/
def execEorImm (v : Byte) (s : State) : Host.Outcome State Fault Refusal := logic (· ^^^ ·) (.imm v) s

/-- EOR, ZeroPage: bitwise exclusive OR with accumulator (R152). -/
def execEorZp (a : Byte) (s : State) : Host.Outcome State Fault Refusal := logic (· ^^^ ·) (.zp a) s

/-- EOR, ZeroPageX: bitwise exclusive OR with accumulator (R152). -/
def execEorZpx (a : Byte) (s : State) : Host.Outcome State Fault Refusal := logic (· ^^^ ·) (.zpx a) s

/-- EOR, Absolute: bitwise exclusive OR with accumulator (R152). -/
def execEorAbs (w : Word) (s : State) : Host.Outcome State Fault Refusal := logic (· ^^^ ·) (.abs w) s

/-- EOR, AbsoluteXIndexed: bitwise exclusive OR with accumulator (R152). -/
def execEorAbsx (w : Word) (s : State) : Host.Outcome State Fault Refusal := logic (· ^^^ ·) (.absx w) s

/-- EOR, AbsoluteYIndexed: bitwise exclusive OR with accumulator (R152). -/
def execEorAbsy (w : Word) (s : State) : Host.Outcome State Fault Refusal := logic (· ^^^ ·) (.absy w) s

/-- EOR, PreIndexedIndirect: bitwise exclusive OR with accumulator (R152). -/
def execEorIndx (a : Byte) (s : State) : Host.Outcome State Fault Refusal := logic (· ^^^ ·) (.indx a) s

/-- EOR, PostIndexedIndirect: bitwise exclusive OR with accumulator (R152). -/
def execEorIndy (a : Byte) (s : State) : Host.Outcome State Fault Refusal := logic (· ^^^ ·) (.indy a) s

/-- BIT, ZeroPage: bit test (R153). -/
def execBitZp (a : Byte) (s : State) : Host.Outcome State Fault Refusal := bitTest (.zp a) s

/-- BIT, Absolute: bit test (R153). -/
def execBitAbs (w : Word) (s : State) : Host.Outcome State Fault Refusal := bitTest (.abs w) s

/-- CMP, Immediate: compare accumulator (R154). -/
def execCmpImm (v : Byte) (s : State) : Host.Outcome State Fault Refusal := compareReg .a (.imm v) s

/-- CMP, ZeroPage: compare accumulator (R154). -/
def execCmpZp (a : Byte) (s : State) : Host.Outcome State Fault Refusal := compareReg .a (.zp a) s

/-- CMP, ZeroPageX: compare accumulator (R154). -/
def execCmpZpx (a : Byte) (s : State) : Host.Outcome State Fault Refusal := compareReg .a (.zpx a) s

/-- CMP, Absolute: compare accumulator (R154). -/
def execCmpAbs (w : Word) (s : State) : Host.Outcome State Fault Refusal := compareReg .a (.abs w) s

/-- CMP, AbsoluteXIndexed: compare accumulator (R154). -/
def execCmpAbsx (w : Word) (s : State) : Host.Outcome State Fault Refusal := compareReg .a (.absx w) s

/-- CMP, AbsoluteYIndexed: compare accumulator (R154). -/
def execCmpAbsy (w : Word) (s : State) : Host.Outcome State Fault Refusal := compareReg .a (.absy w) s

/-- CMP, PreIndexedIndirect: compare accumulator (R154). -/
def execCmpIndx (a : Byte) (s : State) : Host.Outcome State Fault Refusal := compareReg .a (.indx a) s

/-- CMP, PostIndexedIndirect: compare accumulator (R154). -/
def execCmpIndy (a : Byte) (s : State) : Host.Outcome State Fault Refusal := compareReg .a (.indy a) s

/-- CPX, Immediate: compare index X (R155). -/
def execCpxImm (v : Byte) (s : State) : Host.Outcome State Fault Refusal := compareReg .x (.imm v) s

/-- CPX, ZeroPage: compare index X (R155). -/
def execCpxZp (a : Byte) (s : State) : Host.Outcome State Fault Refusal := compareReg .x (.zp a) s

/-- CPX, Absolute: compare index X (R155). -/
def execCpxAbs (w : Word) (s : State) : Host.Outcome State Fault Refusal := compareReg .x (.abs w) s

/-- CPY, Immediate: compare index Y (R156). -/
def execCpyImm (v : Byte) (s : State) : Host.Outcome State Fault Refusal := compareReg .y (.imm v) s

/-- CPY, ZeroPage: compare index Y (R156). -/
def execCpyZp (a : Byte) (s : State) : Host.Outcome State Fault Refusal := compareReg .y (.zp a) s

/-- CPY, Absolute: compare index Y (R156). -/
def execCpyAbs (w : Word) (s : State) : Host.Outcome State Fault Refusal := compareReg .y (.abs w) s

end Sys2Proof.Machine
end

