-- ==== Sys2Proof/Machine/Shift.lean ====
section
/-! DEFINITION. Shifts and rotates (spec 44_shift_rotate.md R190 to R194): the shared operations of the family, then
one meaning per row of the opcode table. UNVERIFIED (log 4): the semantics of ASL are the spec's general knowledge
(D11). -/

namespace Sys2Proof.Machine

/-- The common frame: shift the operand in place, C from the bit shifted out, Z and N from the result, V kept (R190). -/
def shiftOperand (f : Byte → ShiftResult) (m : Operand) (s : State) : Host.Outcome State Fault Refusal :=
  modifyOperand m s fun v => ((f v).value, shiftFlags (f v) s.p)

/-- ASL: bit 0 becomes 0; the old C is not used (R191). -/
def asl (m : Operand) (s : State) : Host.Outcome State Fault Refusal := shiftOperand (fun v => shiftLeft v false) m s

/-- LSR: bit 7 is forced 0, so N comes out 0 (R192, log 8); the old C is not used. -/
def lsr (m : Operand) (s : State) : Host.Outcome State Fault Refusal := shiftOperand (fun v => shiftRight v false) m s

/-- ROL: bit 0 is the old C (R193). -/
def rol (m : Operand) (s : State) : Host.Outcome State Fault Refusal :=
  shiftOperand (fun v => shiftLeft v (s.flag .c)) m s

/-- ROR: bit 7 is the old C (R194). -/
def ror (m : Operand) (s : State) : Host.Outcome State Fault Refusal :=
  shiftOperand (fun v => shiftRight v (s.flag .c)) m s

/-- ASL, ZeroPage: arithmetic shift left (R191). -/
def execAslZp (a : Byte) (s : State) : Host.Outcome State Fault Refusal := asl (.zp a) s

/-- ASL, ZeroPageX: arithmetic shift left (R191). -/
def execAslZpx (a : Byte) (s : State) : Host.Outcome State Fault Refusal := asl (.zpx a) s

/-- ASL, Absolute: arithmetic shift left (R191). -/
def execAslAbs (w : Word) (s : State) : Host.Outcome State Fault Refusal := asl (.abs w) s

/-- ASL, AbsoluteXIndexed: arithmetic shift left (R191). -/
def execAslAbsx (w : Word) (s : State) : Host.Outcome State Fault Refusal := asl (.absx w) s

/-- ASL, Accumulator: arithmetic shift left (R191). -/
def execAslAcc (s : State) : Host.Outcome State Fault Refusal := asl .acc s

/-- LSR, ZeroPage: logical shift right (R192). -/
def execLsrZp (a : Byte) (s : State) : Host.Outcome State Fault Refusal := lsr (.zp a) s

/-- LSR, ZeroPageX: logical shift right (R192). -/
def execLsrZpx (a : Byte) (s : State) : Host.Outcome State Fault Refusal := lsr (.zpx a) s

/-- LSR, Absolute: logical shift right (R192). -/
def execLsrAbs (w : Word) (s : State) : Host.Outcome State Fault Refusal := lsr (.abs w) s

/-- LSR, AbsoluteXIndexed: logical shift right (R192). -/
def execLsrAbsx (w : Word) (s : State) : Host.Outcome State Fault Refusal := lsr (.absx w) s

/-- LSR, Accumulator: logical shift right (R192). -/
def execLsrAcc (s : State) : Host.Outcome State Fault Refusal := lsr .acc s

/-- ROL, ZeroPage: rotate left through carry (R193). -/
def execRolZp (a : Byte) (s : State) : Host.Outcome State Fault Refusal := rol (.zp a) s

/-- ROL, ZeroPageX: rotate left through carry (R193). -/
def execRolZpx (a : Byte) (s : State) : Host.Outcome State Fault Refusal := rol (.zpx a) s

/-- ROL, Absolute: rotate left through carry (R193). -/
def execRolAbs (w : Word) (s : State) : Host.Outcome State Fault Refusal := rol (.abs w) s

/-- ROL, AbsoluteXIndexed: rotate left through carry (R193). -/
def execRolAbsx (w : Word) (s : State) : Host.Outcome State Fault Refusal := rol (.absx w) s

/-- ROL, Accumulator: rotate left through carry (R193). -/
def execRolAcc (s : State) : Host.Outcome State Fault Refusal := rol .acc s

/-- ROR, ZeroPage: rotate right through carry (R194). -/
def execRorZp (a : Byte) (s : State) : Host.Outcome State Fault Refusal := ror (.zp a) s

/-- ROR, ZeroPageX: rotate right through carry (R194). -/
def execRorZpx (a : Byte) (s : State) : Host.Outcome State Fault Refusal := ror (.zpx a) s

/-- ROR, Absolute: rotate right through carry (R194). -/
def execRorAbs (w : Word) (s : State) : Host.Outcome State Fault Refusal := ror (.abs w) s

/-- ROR, AbsoluteXIndexed: rotate right through carry (R194). -/
def execRorAbsx (w : Word) (s : State) : Host.Outcome State Fault Refusal := ror (.absx w) s

/-- ROR, Accumulator: rotate right through carry (R194). -/
def execRorAcc (s : State) : Host.Outcome State Fault Refusal := ror .acc s

end Sys2Proof.Machine
end

