-- ==== Sys2Proof/Machine/Stack.lean ====
section
/-! DEFINITION. Stack instructions (spec 45_stack.md R200 to R206): the shared operations of the family, then one
meaning per row of the opcode table. -/

namespace Sys2Proof.Machine

/-- Push A; no flag (R203). -/
def pushReg (s : State) : Host.Outcome State Fault Refusal := .next ((s.push s.a).advance 1)

/-- Push the live P, bit for bit, B and U as they stand (R204). UNVERIFIED (log 7): the spec's decision D18. -/
def pushStatus (s : State) : Host.Outcome State Fault Refusal := .next ((s.push s.dump).advance 1)

/-- Pull A; Z and N from it (R205). -/
def pullReg (s : State) : Host.Outcome State Fault Refusal :=
  .next (((s.pulled.setA s.pullByte).zn s.pullByte).advance 1)

/-- Pull P, all eight bits (R206). UNVERIFIED (log 7): the spec's decision D29 for B and U. -/
def pullStatus (s : State) : Host.Outcome State Fault Refusal := .next ((s.pulled.setP s.pullByte).advance 1)

/-- PHA: push accumulator (R203). -/
def execPha (s : State) : Host.Outcome State Fault Refusal := pushReg s

/-- PHP: push processor status (R204). -/
def execPhp (s : State) : Host.Outcome State Fault Refusal := pushStatus s

/-- PLA: pull accumulator (R205). -/
def execPla (s : State) : Host.Outcome State Fault Refusal := pullReg s

/-- PLP: pull processor status (R206). -/
def execPlp (s : State) : Host.Outcome State Fault Refusal := pullStatus s

end Sys2Proof.Machine
end

