-- ==== Sys2Proof/Machine/Dispatch.lean ====
section
/-! DEFINITION. The dispatcher (spec 40_step_and_addressing.md R119): one arm per constructor of Instr. -/

namespace Sys2Proof.Machine

def exec (i : Instr) (s : State) : Host.Outcome State Fault Refusal :=
  match i with
  | .ldaImm v => Sys2Proof.Machine.execLdaImm v s
  | .ldaZp a => Sys2Proof.Machine.execLdaZp a s
  | .ldaZpx a => Sys2Proof.Machine.execLdaZpx a s
  | .ldaAbs w => Sys2Proof.Machine.execLdaAbs w s
  | .ldaAbsx w => Sys2Proof.Machine.execLdaAbsx w s
  | .ldaAbsy w => Sys2Proof.Machine.execLdaAbsy w s
  | .ldaIndx a => Sys2Proof.Machine.execLdaIndx a s
  | .ldaIndy a => Sys2Proof.Machine.execLdaIndy a s
  | .ldxImm v => Sys2Proof.Machine.execLdxImm v s
  | .ldxZp a => Sys2Proof.Machine.execLdxZp a s
  | .ldxZpy a => Sys2Proof.Machine.execLdxZpy a s
  | .ldxAbs w => Sys2Proof.Machine.execLdxAbs w s
  | .ldxAbsy w => Sys2Proof.Machine.execLdxAbsy w s
  | .ldyImm v => Sys2Proof.Machine.execLdyImm v s
  | .ldyZp a => Sys2Proof.Machine.execLdyZp a s
  | .ldyZpx a => Sys2Proof.Machine.execLdyZpx a s
  | .ldyAbs w => Sys2Proof.Machine.execLdyAbs w s
  | .ldyAbsx w => Sys2Proof.Machine.execLdyAbsx w s
  | .staZp a => Sys2Proof.Machine.execStaZp a s
  | .staZpx a => Sys2Proof.Machine.execStaZpx a s
  | .staAbs w => Sys2Proof.Machine.execStaAbs w s
  | .staAbsx w => Sys2Proof.Machine.execStaAbsx w s
  | .staAbsy w => Sys2Proof.Machine.execStaAbsy w s
  | .staIndx a => Sys2Proof.Machine.execStaIndx a s
  | .staIndy a => Sys2Proof.Machine.execStaIndy a s
  | .stxZp a => Sys2Proof.Machine.execStxZp a s
  | .stxZpy a => Sys2Proof.Machine.execStxZpy a s
  | .stxAbs w => Sys2Proof.Machine.execStxAbs w s
  | .styZp a => Sys2Proof.Machine.execStyZp a s
  | .styZpx a => Sys2Proof.Machine.execStyZpx a s
  | .styAbs w => Sys2Proof.Machine.execStyAbs w s
  | .tax => Sys2Proof.Machine.execTax s
  | .tay => Sys2Proof.Machine.execTay s
  | .txa => Sys2Proof.Machine.execTxa s
  | .tya => Sys2Proof.Machine.execTya s
  | .tsx => Sys2Proof.Machine.execTsx s
  | .txs => Sys2Proof.Machine.execTxs s
  | .andImm v => Sys2Proof.Machine.execAndImm v s
  | .andZp a => Sys2Proof.Machine.execAndZp a s
  | .andZpx a => Sys2Proof.Machine.execAndZpx a s
  | .andAbs w => Sys2Proof.Machine.execAndAbs w s
  | .andAbsx w => Sys2Proof.Machine.execAndAbsx w s
  | .andAbsy w => Sys2Proof.Machine.execAndAbsy w s
  | .andIndx a => Sys2Proof.Machine.execAndIndx a s
  | .andIndy a => Sys2Proof.Machine.execAndIndy a s
  | .oraImm v => Sys2Proof.Machine.execOraImm v s
  | .oraZp a => Sys2Proof.Machine.execOraZp a s
  | .oraZpx a => Sys2Proof.Machine.execOraZpx a s
  | .oraAbs w => Sys2Proof.Machine.execOraAbs w s
  | .oraAbsx w => Sys2Proof.Machine.execOraAbsx w s
  | .oraAbsy w => Sys2Proof.Machine.execOraAbsy w s
  | .oraIndx a => Sys2Proof.Machine.execOraIndx a s
  | .oraIndy a => Sys2Proof.Machine.execOraIndy a s
  | .eorImm v => Sys2Proof.Machine.execEorImm v s
  | .eorZp a => Sys2Proof.Machine.execEorZp a s
  | .eorZpx a => Sys2Proof.Machine.execEorZpx a s
  | .eorAbs w => Sys2Proof.Machine.execEorAbs w s
  | .eorAbsx w => Sys2Proof.Machine.execEorAbsx w s
  | .eorAbsy w => Sys2Proof.Machine.execEorAbsy w s
  | .eorIndx a => Sys2Proof.Machine.execEorIndx a s
  | .eorIndy a => Sys2Proof.Machine.execEorIndy a s
  | .bitZp a => Sys2Proof.Machine.execBitZp a s
  | .bitAbs w => Sys2Proof.Machine.execBitAbs w s
  | .cmpImm v => Sys2Proof.Machine.execCmpImm v s
  | .cmpZp a => Sys2Proof.Machine.execCmpZp a s
  | .cmpZpx a => Sys2Proof.Machine.execCmpZpx a s
  | .cmpAbs w => Sys2Proof.Machine.execCmpAbs w s
  | .cmpAbsx w => Sys2Proof.Machine.execCmpAbsx w s
  | .cmpAbsy w => Sys2Proof.Machine.execCmpAbsy w s
  | .cmpIndx a => Sys2Proof.Machine.execCmpIndx a s
  | .cmpIndy a => Sys2Proof.Machine.execCmpIndy a s
  | .cpxImm v => Sys2Proof.Machine.execCpxImm v s
  | .cpxZp a => Sys2Proof.Machine.execCpxZp a s
  | .cpxAbs w => Sys2Proof.Machine.execCpxAbs w s
  | .cpyImm v => Sys2Proof.Machine.execCpyImm v s
  | .cpyZp a => Sys2Proof.Machine.execCpyZp a s
  | .cpyAbs w => Sys2Proof.Machine.execCpyAbs w s
  | .adcImm v => Sys2Proof.Machine.execAdcImm v s
  | .adcZp a => Sys2Proof.Machine.execAdcZp a s
  | .adcZpx a => Sys2Proof.Machine.execAdcZpx a s
  | .adcAbs w => Sys2Proof.Machine.execAdcAbs w s
  | .adcAbsx w => Sys2Proof.Machine.execAdcAbsx w s
  | .adcAbsy w => Sys2Proof.Machine.execAdcAbsy w s
  | .adcIndx a => Sys2Proof.Machine.execAdcIndx a s
  | .adcIndy a => Sys2Proof.Machine.execAdcIndy a s
  | .sbcImm v => Sys2Proof.Machine.execSbcImm v s
  | .sbcZp a => Sys2Proof.Machine.execSbcZp a s
  | .sbcZpx a => Sys2Proof.Machine.execSbcZpx a s
  | .sbcAbs w => Sys2Proof.Machine.execSbcAbs w s
  | .sbcAbsx w => Sys2Proof.Machine.execSbcAbsx w s
  | .sbcAbsy w => Sys2Proof.Machine.execSbcAbsy w s
  | .sbcIndx a => Sys2Proof.Machine.execSbcIndx a s
  | .sbcIndy a => Sys2Proof.Machine.execSbcIndy a s
  | .incZp a => Sys2Proof.Machine.execIncZp a s
  | .incZpx a => Sys2Proof.Machine.execIncZpx a s
  | .incAbs w => Sys2Proof.Machine.execIncAbs w s
  | .incAbsx w => Sys2Proof.Machine.execIncAbsx w s
  | .decZp a => Sys2Proof.Machine.execDecZp a s
  | .decZpx a => Sys2Proof.Machine.execDecZpx a s
  | .decAbs w => Sys2Proof.Machine.execDecAbs w s
  | .decAbsx w => Sys2Proof.Machine.execDecAbsx w s
  | .inx => Sys2Proof.Machine.execInx s
  | .iny => Sys2Proof.Machine.execIny s
  | .dex => Sys2Proof.Machine.execDex s
  | .dey => Sys2Proof.Machine.execDey s
  | .aslZp a => Sys2Proof.Machine.execAslZp a s
  | .aslZpx a => Sys2Proof.Machine.execAslZpx a s
  | .aslAbs w => Sys2Proof.Machine.execAslAbs w s
  | .aslAbsx w => Sys2Proof.Machine.execAslAbsx w s
  | .aslAcc => Sys2Proof.Machine.execAslAcc s
  | .lsrZp a => Sys2Proof.Machine.execLsrZp a s
  | .lsrZpx a => Sys2Proof.Machine.execLsrZpx a s
  | .lsrAbs w => Sys2Proof.Machine.execLsrAbs w s
  | .lsrAbsx w => Sys2Proof.Machine.execLsrAbsx w s
  | .lsrAcc => Sys2Proof.Machine.execLsrAcc s
  | .rolZp a => Sys2Proof.Machine.execRolZp a s
  | .rolZpx a => Sys2Proof.Machine.execRolZpx a s
  | .rolAbs w => Sys2Proof.Machine.execRolAbs w s
  | .rolAbsx w => Sys2Proof.Machine.execRolAbsx w s
  | .rolAcc => Sys2Proof.Machine.execRolAcc s
  | .rorZp a => Sys2Proof.Machine.execRorZp a s
  | .rorZpx a => Sys2Proof.Machine.execRorZpx a s
  | .rorAbs w => Sys2Proof.Machine.execRorAbs w s
  | .rorAbsx w => Sys2Proof.Machine.execRorAbsx w s
  | .rorAcc => Sys2Proof.Machine.execRorAcc s
  | .pha => Sys2Proof.Machine.execPha s
  | .php => Sys2Proof.Machine.execPhp s
  | .pla => Sys2Proof.Machine.execPla s
  | .plp => Sys2Proof.Machine.execPlp s
  | .jmpAbs w => Sys2Proof.Machine.execJmpAbs w s
  | .jmpInd w => Sys2Proof.Machine.execJmpInd w s
  | .jsr w => Sys2Proof.Machine.execJsr w s
  | .rts => Sys2Proof.Machine.execRts s
  | .rti => Sys2Proof.Machine.execRti s
  | .bcc o => Sys2Proof.Machine.execBcc o s
  | .bcs o => Sys2Proof.Machine.execBcs o s
  | .beq o => Sys2Proof.Machine.execBeq o s
  | .bne o => Sys2Proof.Machine.execBne o s
  | .bpl o => Sys2Proof.Machine.execBpl o s
  | .bmi o => Sys2Proof.Machine.execBmi o s
  | .bvc o => Sys2Proof.Machine.execBvc o s
  | .bvs o => Sys2Proof.Machine.execBvs o s
  | .brk => Sys2Proof.Machine.execBrk s
  | .nop => Sys2Proof.Machine.execNop s
  | .clc => Sys2Proof.Machine.execClc s
  | .cld => Sys2Proof.Machine.execCld s
  | .cli => Sys2Proof.Machine.execCli s
  | .clv => Sys2Proof.Machine.execClv s
  | .sec => Sys2Proof.Machine.execSec s
  | .sed => Sys2Proof.Machine.execSed s
  | .sei => Sys2Proof.Machine.execSei s

end Sys2Proof.Machine
end

