-- ==== Sys2Proof/Machine/Step.lean ====
section
/-! DEFINITION. One `clock` command (spec 40_step_and_addressing.md R100): fetch, decode, then execute, which
resolves. -/

namespace Sys2Proof.Machine

/-- One step from the state. An undefined opcode is a fault that names the byte and P0 (60_exceptions.md R251); too
few bytes cannot happen, for `fetchBytes` gives three (log 14). -/
def step (s : State) : Host.Outcome State Fault Refusal :=
  match decode s.fetchBytes with
  | .ok (i, _) => exec i s
  | .error (.undefinedOpcode op) => .fault (.undefinedOpcode op s.pc)
  | .error .truncated => .fault .contractViolation

/-- The state with an instruction stored where the next step fetches: the bytes of the `nbits` low bits of `w`, first
byte at PC, zeros above, three bytes in all. It stands for the loader (70_reset_and_hazards.md R283; log 16). -/
def State.withFetchWord (s : State) (nbits w : Nat) : State :=
  let v := w % 2 ^ nbits
  ((s.write s.pc (BitVec.ofNat 8 v)).write (s.pc + 1) (BitVec.ofNat 8 (v / 256))).write (s.pc + 2)
    (BitVec.ofNat 8 (v / 65536))

end Sys2Proof.Machine
end

