-- ==== Sys2Proof/Machine/ControlPort.lean ====
section
/-! DEFINITION. The interfaces of the block other than memory (spec 00_scope.md R12): the control port with `reset` and
`clock`, the observation port, and what the driver does before and around a run (launch, loading, ending it). -/

namespace Sys2Proof.Machine

/-- The `reset` command (70_reset_and_hazards.md R280): registers to the values of 10_state.md R40, memory untouched.
The value A takes is an argument, any byte, for the spec leaves it open (`A_RESET`, R40; log 1). -/
def State.resetCommand (aReset : Byte) (s : State) : State :=
  { s with a := aReset, x := 0x00, y := 0x00, pc := 0x0000, sp := 0xFF, p := 0x00 }

/-- A command of the driver (R12). -/
inductive Command
  /-- `reset`, with the byte A happens to take. -/
  | reset (aReset : Byte)
  /-- `clock`: one instruction. -/
  | clock
  deriving DecidableEq, Repr

/-- What a command leaves and signals (60_exceptions.md R250, R251). -/
structure Response where
  state : State
  signal : Option Fault
  deriving DecidableEq, Repr

/-- The effect of a command. After an error "every register, PC included, and all memory are exactly as before the step"
(R251; log 11). No arm of `exec` refuses, so a refusal is answered as the unreachable contract violation. -/
def State.drive (s : State) : Command → Response
  | .reset aReset => { state := s.resetCommand aReset, signal := none }
  | .clock =>
    match step s with
    | .next t => { state := t, signal := none }
    | .fault f => { state := s, signal := some f }
    | .refused _ => { state := s, signal := some .contractViolation }

/-- What the observation port shows (R41, R266): the registers, and each flag as a view of P (R32). -/
structure Observation where
  a : Byte
  x : Byte
  y : Byte
  pc : Word
  sp : Byte
  carry : Bool
  zero : Bool
  interruptDisable : Bool
  decimal : Bool
  brk : Bool
  unused : Bool
  overflow : Bool
  negative : Bool
  deriving DecidableEq, Repr

/-- A read through the observation port; it changes nothing (R266). -/
def State.observe (s : State) : Observation :=
  { a := s.a, x := s.x, y := s.y, pc := s.pc, sp := s.sp, carry := s.flag .c, zero := s.flag .z,
    interruptDisable := s.flag .i, decimal := s.flag .d, brk := s.flag .b, unused := s.flag .u,
    overflow := s.flag .v, negative := s.flag .n }

/-- The registers a driver names for a launch (R282, `LAUNCH`); one not named keeps its reset value. -/
structure Launch where
  a : Option Byte := none
  x : Option Byte := none
  y : Option Byte := none
  pc : Option Word := none
  sp : Option Byte := none
  p : Option Byte := none
  deriving DecidableEq, Repr

/-- "The reset state with any of the registers replaced by values the host names" (R282). -/
def State.launch (l : Launch) (s : State) : State :=
  { s with a := l.a.getD s.a, x := l.x.getD s.x, y := l.y.getD s.y, pc := l.pc.getD s.pc, sp := l.sp.getD s.sp,
           p := l.p.getD s.p }

/-- The loader puts bytes in memory at consecutive addresses, modulo 65536 (R283 item 1). -/
def State.load (s : State) (base : Word) : List Byte → State
  | [] => s
  | v :: vs => (s.write base v).load (base + 1) vs

/-- How a run ends (R284, `HALT`). -/
inductive RunEnd
  /-- The driver's end condition held. -/
  | halted (s : State)
  /-- The driver stopped issuing `clock`. -/
  | stopped (s : State)
  /-- A step ended in an error; the state is the one before it. -/
  | failed (s : State) (f : Fault)
  deriving DecidableEq, Repr

/-- At most `k` clocks, until the end condition of the driver holds or a step fails (R284). -/
def runUntil (halt : State → Bool) : Nat → State → RunEnd
  | 0, s => if halt s then .halted s else .stopped s
  | k + 1, s =>
    if halt s then .halted s
    else
      match (s.drive .clock).signal with
      | some f => .failed s f
      | none => runUntil halt k (s.drive .clock).state

end Sys2Proof.Machine
end

