-- ==== Sys2Proof/Safety.lean ====
section
/-! DEFINITION. What counts as a safe run, in the terms claims use. The only thing that can end a run of this hardware
before its driver does is an undefined opcode (spec 60_exceptions.md R258, 70_reset_and_hazards.md R284). -/

namespace Sys2Proof.Machine

/-- The byte at PC is an opcode of the table (30_encoding.md R87). -/
def State.opcodeDefined (s : State) : Bool := (lookupOpcode (s.read s.pc)).isSome

/-- The step completes (60_exceptions.md R250). -/
def State.completes (s : State) : Prop := ∃ t, step s = .next t

/-- `k` steps complete. -/
def State.runsFor (k : Nat) (s : State) : Prop := ∃ t, Sys2Proof.core.run k s = .next t

/-- The invariant of the machine: memory is in its canonical form. The registers have no illegal value (10_state.md
R25, R26). -/
def State.inv (s : State) : Bool := s.mem.wf

end Sys2Proof.Machine
end

