-- ==== Sys2Proof/Certificates/Slice0/Obligations.lean ====
section
/-! DEFINITION. The statements about the model. A statement with basis 'derived' rests on a passage the spec marks as
its own decision, derivation or general knowledge; its docstring names it. -/

namespace Sys2Proof.Claims

open Sys2Proof.Machine

/-- The frame of an instruction: every register, flag and byte of memory outside the three lists is as before. PC may
change. -/
structure ChangesOnly (regs : List Reg) (flags : List Flag) (cells : List Word) (s t : State) : Prop where
  registers : ∀ r, r ∉ regs → t.reg r = s.reg r
  flags : ∀ f, f ∉ flags → t.flag f = s.flag f
  memory : ∀ w, w ∉ cells → t.read w = s.read w

/-- Z and N as `setZN(v)` leaves them: Z says `v = 0`, N is `v[7]` (10_state.md R30, R31). -/
def ZeroNegativeOf (v : Byte) (t : State) : Prop :=
  (t.flag .z = true ↔ v = 0) ∧ t.flag .n = v.getLsbD 7

/-- PC is `P0 +16 L` (40_step_and_addressing.md R101). -/
def Advanced (i : Instr) (s t : State) : Prop := t.pc = s.pc + BitVec.ofNat 16 (operandLength i.operand)

/-- The stack location `0x0100 + SP` for a value of SP (10_state.md R25). -/
def stackCell (sp : Byte) : Word := BitVec.ofNat 16 (0x0100 + sp.toNat)

/-- The 105 undefined opcode bytes, as 30_encoding.md R88 lists them. -/
def undefinedBytes : List Byte :=
  [0x02, 0x03, 0x04, 0x07, 0x0B, 0x0C, 0x0F, 0x12, 0x13, 0x14, 0x17, 0x1A, 0x1B, 0x1C, 0x1F, 0x22, 0x23, 0x27, 0x2B,
   0x2F, 0x32, 0x33, 0x34, 0x37, 0x3A, 0x3B, 0x3C, 0x3F, 0x42, 0x43, 0x44, 0x47, 0x4B, 0x4F, 0x52, 0x53, 0x54, 0x57,
   0x5A, 0x5B, 0x5C, 0x5F, 0x62, 0x63, 0x64, 0x67, 0x6B, 0x6F, 0x72, 0x73, 0x74, 0x77, 0x7A, 0x7B, 0x7C, 0x7F, 0x80,
   0x82, 0x83, 0x87, 0x89, 0x8B, 0x8F, 0x92, 0x93, 0x97, 0x9B, 0x9C, 0x9E, 0x9F, 0xA3, 0xA7, 0xAB, 0xAF, 0xB2, 0xB3,
   0xB7, 0xBB, 0xBF, 0xC2, 0xC3, 0xC7, 0xCB, 0xCF, 0xD2, 0xD3, 0xD4, 0xD7, 0xDA, 0xDB, 0xDC, 0xDF, 0xE2, 0xE3, 0xE7,
   0xEB, 0xEF, 0xF2, 0xF3, 0xF4, 0xF7, 0xFA, 0xFB, 0xFC, 0xFF]

/-- The instructions that may write each flag: the column "Written by" of 10_state.md R35. -/
def flagWriters : Flag → List Mnemonic
  | .c => [.cmp, .cpx, .cpy, .lsr, .rol, .ror, .clc, .asl, .adc, .sbc, .sec, .plp, .rti]
  | .z | .n =>
    [.and, .ora, .inc, .dec, .inx, .iny, .dex, .dey, .lda, .ldx, .ldy, .lsr, .rol, .ror, .pla, .eor, .asl, .adc, .sbc,
      .tax, .tay, .txa, .tya, .tsx, .cmp, .cpx, .cpy, .bit, .plp, .rti]
  | .i => [.cli, .brk, .sei, .plp, .rti]
  | .d => [.cld, .sed, .plp, .rti]
  | .b => [.brk, .plp, .rti]
  | .u => [.plp, .rti]
  | .v => [.clv, .adc, .sbc, .bit, .plp, .rti]

/-- The instructions that may write each register (10_state.md R21 to R23, R25; 45_stack.md; 46_control.md). The four
shifts write A in Accumulator mode only. -/
def registerWriters : Reg → List Mnemonic
  | .a => [.lda, .txa, .tya, .and, .ora, .eor, .adc, .sbc, .pla, .asl, .lsr, .rol, .ror]
  | .x => [.ldx, .tax, .tsx, .inx, .dex]
  | .y => [.ldy, .tay, .iny, .dey]
  | .sp => [.txs, .pha, .php, .pla, .plp, .jsr, .rts, .rti, .brk]

/-- The instructions that set PC by a rule of their own (R101). -/
def controlTransfers : List Mnemonic :=
  [.jmp, .jsr, .rts, .rti, .brk, .bcc, .bcs, .beq, .bne, .bpl, .bmi, .bvc, .bvs]

/-- The instructions that may write memory: stores, read-modify-writes and pushes. -/
def memoryWriters : List Mnemonic :=
  [.sta, .stx, .sty, .inc, .dec, .asl, .lsr, .rol, .ror, .pha, .php, .jsr, .brk]

/-- The flags that some instruction tests (R35, column "Read by", pushes apart). -/
def testedFlags : List Flag := [.c, .z, .v, .n]

/-- The branch condition: the flag and the value that take the branch (46_control.md R215 to R222). -/
def branchConditions : List (Mnemonic × Flag × Bool) :=
  [(.bcc, .c, false), (.bcs, .c, true), (.beq, .z, true), (.bne, .z, false), (.bpl, .n, false), (.bmi, .n, true),
    (.bvc, .v, false), (.bvs, .v, true)]

/-- `exec` done `k` times with one instruction. -/
def repeatExec (i : Instr) : Nat → State → Host.Outcome State Fault Refusal
  | 0, s => .next s
  | k + 1, s =>
    match exec i s with
    | .next t => repeatExec i k t
    | .fault f => .fault f
    | .refused r => .refused r

end Sys2Proof.Claims

open Sys2Proof Sys2Proof.Machine Sys2Proof.Claims

/-- LDA, LDX and LDY load the operand byte into their register and set Z and N from it. R130, R131, R132. -/
def Obligations.LoadPutsOperandInRegister : Prop :=
  ∀ (i : Instr) (r : Reg) (s : State), (i.mnemonic, r) ∈ [(Mnemonic.lda, Reg.a), (.ldx, .x), (.ldy, .y)] →
    ∃ m t, operandValue i.operand s = some m ∧ exec i s = .next t ∧ t.reg r = m ∧ ZeroNegativeOf m t ∧
      Advanced i s t ∧ ChangesOnly [r] [.z, .n] [] s t

/-- STA, STX and STY store their register at the resolved address and change nothing else. The spec marks R133 to R135
[from general knowledge, not in source] (92_eei_decisions.md D11); log 4. -/
def Obligations.StorePutsRegisterAtResolvedAddress : Prop :=
  ∀ (i : Instr) (r : Reg) (s : State), (i.mnemonic, r) ∈ [(Mnemonic.sta, Reg.a), (.stx, .x), (.sty, .y)] →
    ∃ w t, (resolve i.operand s).address = some w ∧ exec i s = .next t ∧ t.read w = s.reg r ∧ Advanced i s t ∧
      ChangesOnly [] [] [w] s t

/-- TAX, TAY, TXA, TYA and TSX copy a register and set Z and N from it. The spec marks R136 to R140 [from general
knowledge, not in source] (92_eei_decisions.md D11); log 4. -/
def Obligations.TransferCopiesRegister : Prop :=
  ∀ (i : Instr) (src dst : Reg) (s : State),
    (i, src, dst) ∈ [(Instr.tax, Reg.a, Reg.x), (.tay, .a, .y), (.txa, .x, .a), (.tya, .y, .a), (.tsx, .sp, .x)] →
    ∃ t, exec i s = .next t ∧ t.reg dst = s.reg src ∧ ZeroNegativeOf (s.reg src) t ∧ t.pc = s.pc + 1 ∧
      ChangesOnly [dst] [.z, .n] [] s t

/-- TXS copies X to SP and writes no flag. The spec marks R141 [from general knowledge, not in source]
(92_eei_decisions.md D11); log 4. -/
def Obligations.TxsCopiesXAndNoFlag : Prop :=
  ∀ s : State, ∃ t, exec .txs s = .next t ∧ t.sp = s.x ∧ t.pc = s.pc + 1 ∧ ChangesOnly [.sp] [] [] s t

/-- AND and ORA combine the operand into A and set Z and N. R150, R151. -/
def Obligations.AndOraCombineIntoAccumulator : Prop :=
  ∀ (i : Instr) (s : State), i.mnemonic = .and ∨ i.mnemonic = .ora →
    ∃ m t, operandValue i.operand s = some m ∧ exec i s = .next t ∧
      (i.mnemonic = .and → t.a = s.a &&& m) ∧ (i.mnemonic = .ora → t.a = s.a ||| m) ∧ ZeroNegativeOf t.a t ∧
      Advanced i s t ∧ ChangesOnly [.a] [.z, .n] [] s t

/-- EOR exclusive-ors the operand into A and sets Z and N. The spec marks R152 [from general knowledge, not in source]
(92_eei_decisions.md D11); log 4. -/
def Obligations.EorCombinesIntoAccumulator : Prop :=
  ∀ (i : Instr) (s : State), i.mnemonic = .eor →
    ∃ m t, operandValue i.operand s = some m ∧ exec i s = .next t ∧ t.a = s.a ^^^ m ∧ ZeroNegativeOf t.a t ∧
      Advanced i s t ∧ ChangesOnly [.a] [.z, .n] [] s t

/-- BIT sets Z from A AND m, and N and V from bits 7 and 6 of m. The spec marks R153 [from general knowledge, not in
source] (92_eei_decisions.md D11); log 4. -/
def Obligations.BitTestSetsFlagsFromOperand : Prop :=
  ∀ (i : Instr) (s : State), i.mnemonic = .bit →
    ∃ m t, operandValue i.operand s = some m ∧ exec i s = .next t ∧ (t.flag .z = true ↔ s.a &&& m = 0) ∧
      t.flag .n = m.getLsbD 7 ∧ t.flag .v = m.getLsbD 6 ∧ Advanced i s t ∧ ChangesOnly [] [.z, .n, .v] [] s t

/-- CMP, CPX and CPY set C, Z and N from the unsigned comparison and change no register. R154, R155, R156. -/
def Obligations.CompareSetsCarryZeroNegative : Prop :=
  ∀ (i : Instr) (r : Reg) (s : State), (i.mnemonic, r) ∈ [(Mnemonic.cmp, Reg.a), (.cpx, .x), (.cpy, .y)] →
    ∃ m t, operandValue i.operand s = some m ∧ exec i s = .next t ∧
      (t.flag .c = true ↔ m.toNat ≤ (s.reg r).toNat) ∧ (t.flag .z = true ↔ s.reg r = m) ∧
      (t.flag .n = true ↔ 128 ≤ (256 + (s.reg r).toNat - m.toNat) % 256) ∧ Advanced i s t ∧
      ChangesOnly [] [.c, .z, .n] [] s t

/-- ADC adds the operand and C to A in binary, whatever D holds, and sets C, V, Z and N. The spec marks R170 [from
general knowledge, not in source] (92_eei_decisions.md D11), and D = 1 is its decision D10; logs 4 and 10. -/
def Obligations.AdcAddsOperandAndCarry : Prop :=
  ∀ (i : Instr) (s : State), i.mnemonic = .adc →
    ∃ m t, operandValue i.operand s = some m ∧ exec i s = .next t ∧
      t.a.toNat = (s.a.toNat + m.toNat + (s.flag .c).toNat) % 256 ∧
      (t.flag .c = true ↔ 255 < s.a.toNat + m.toNat + (s.flag .c).toNat) ∧
      t.flag .v = (s.a.getLsbD 7 == m.getLsbD 7 && t.a.getLsbD 7 != s.a.getLsbD 7) ∧
      ZeroNegativeOf t.a t ∧ Advanced i s t ∧ ChangesOnly [.a] [.c, .z, .v, .n] [] s t

/-- SBC subtracts the operand and the borrow from A in binary, whatever D holds, and sets C, V, Z and N. The spec marks
R171 [from general knowledge, not in source] (92_eei_decisions.md D11), and D = 1 is its decision D10; logs 4 and
10. -/
def Obligations.SbcSubtractsOperandAndBorrow : Prop :=
  ∀ (i : Instr) (s : State), i.mnemonic = .sbc →
    ∃ m t, operandValue i.operand s = some m ∧ exec i s = .next t ∧
      (t.a.toNat : Int) = ((s.a.toNat : Int) - m.toNat - (1 - (s.flag .c).toNat)) % 256 ∧
      (t.flag .c = true ↔ m.toNat + (1 - (s.flag .c).toNat) ≤ s.a.toNat) ∧
      t.flag .v = (s.a.getLsbD 7 != m.getLsbD 7 && t.a.getLsbD 7 != s.a.getLsbD 7) ∧
      ZeroNegativeOf t.a t ∧ Advanced i s t ∧ ChangesOnly [.a] [.c, .z, .v, .n] [] s t

/-- V after ADC and SBC says that the exact signed result does not fit in eight bits. R179 (marked derived): "V ... is
the two's-complement overflow of an add or subtract". -/
def Obligations.OverflowIsSignedOverflow : Prop :=
  ∀ (i : Instr) (m : Byte) (s t : State), operandValue i.operand s = some m → exec i s = .next t →
    (i.mnemonic = .adc → (t.flag .v = true ↔ s.a.toInt + m.toInt + (s.flag .c).toNat < -128 ∨
      127 < s.a.toInt + m.toInt + (s.flag .c).toNat)) ∧
    (i.mnemonic = .sbc → (t.flag .v = true ↔ s.a.toInt - m.toInt - (1 - (s.flag .c).toNat) < -128 ∨
      127 < s.a.toInt - m.toInt - (1 - (s.flag .c).toNat)))

/-- INC and DEC add and subtract one at the resolved address, wrapping, and set Z and N only. R173, R174. -/
def Obligations.IncDecAdjustMemoryCell : Prop :=
  ∀ (i : Instr) (s : State), i.mnemonic = .inc ∨ i.mnemonic = .dec →
    ∃ w t, (resolve i.operand s).address = some w ∧ exec i s = .next t ∧
      (i.mnemonic = .inc → (t.read w).toNat = ((s.read w).toNat + 1) % 256) ∧
      (i.mnemonic = .dec → (t.read w).toNat = ((s.read w).toNat + 255) % 256) ∧
      ZeroNegativeOf (t.read w) t ∧ Advanced i s t ∧ ChangesOnly [] [.z, .n] [w] s t

/-- INX, INY, DEX and DEY add and subtract one, wrapping, and set Z and N only. R175, R176, R177, R178. -/
def Obligations.IndexIncrementDecrementWraps : Prop :=
  ∀ (i : Instr) (r : Reg) (delta : Nat) (s : State),
    (i, r, delta) ∈ [(Instr.inx, Reg.x, 1), (.iny, .y, 1), (.dex, .x, 255), (.dey, .y, 255)] →
    ∃ t, exec i s = .next t ∧ (t.reg r).toNat = ((s.reg r).toNat + delta) % 256 ∧ ZeroNegativeOf (t.reg r) t ∧
      t.pc = s.pc + 1 ∧ ChangesOnly [r] [.z, .n] [] s t

/-- ROL and ROR rotate the operand through C, in A or in memory. R193, R194. -/
def Obligations.RotateMovesOperandThroughCarry : Prop :=
  ∀ (i : Instr) (s : State), i.mnemonic = .rol ∨ i.mnemonic = .ror →
    ∃ m r t, operandValue i.operand s = some m ∧ exec i s = .next t ∧
      (i.mnemonic = .rol → r.toNat = (2 * m.toNat + (s.flag .c).toNat) % 256 ∧ t.flag .c = m.getLsbD 7) ∧
      (i.mnemonic = .ror → r.toNat = m.toNat / 2 + 128 * (s.flag .c).toNat ∧ t.flag .c = m.getLsbD 0) ∧
      ZeroNegativeOf r t ∧ Advanced i s t ∧
      (i.mode = .acc → t.a = r ∧ ChangesOnly [.a] [.c, .z, .n] [] s t) ∧
      (i.mode ≠ .acc → ∃ w, (resolve i.operand s).address = some w ∧ m = s.read w ∧ t.read w = r ∧
        ChangesOnly [] [.c, .z, .n] [w] s t)

/-- ASL and LSR shift a zero into the operand, in A or in memory; LSR leaves N clear. The spec marks R191 [from general
knowledge, not in source] (92_eei_decisions.md D11); "N always false" of R192 is read by its decision D17; logs 4
and 8. -/
def Obligations.ShiftMovesZeroIn : Prop :=
  ∀ (i : Instr) (s : State), i.mnemonic = .asl ∨ i.mnemonic = .lsr →
    ∃ m r t, operandValue i.operand s = some m ∧ exec i s = .next t ∧
      (i.mnemonic = .asl → r.toNat = (2 * m.toNat) % 256 ∧ t.flag .c = m.getLsbD 7) ∧
      (i.mnemonic = .lsr → r.toNat = m.toNat / 2 ∧ t.flag .c = m.getLsbD 0 ∧ t.flag .n = false) ∧
      ZeroNegativeOf r t ∧ Advanced i s t ∧
      (i.mode = .acc → t.a = r ∧ ChangesOnly [.a] [.c, .z, .n] [] s t) ∧
      (i.mode ≠ .acc → ∃ w, (resolve i.operand s).address = some w ∧ m = s.read w ∧ t.read w = r ∧
        ChangesOnly [] [.c, .z, .n] [w] s t)

/-- Nine ROLs, or nine RORs, of A restore A and C. R193, R194: "a 9-bit rotation through C: nine ROLs restore operand
and C". -/
def Obligations.NineRotationsRestore : Prop :=
  ∀ (i : Instr) (s : State), i = .rolAcc ∨ i = .rorAcc →
    ∃ t, repeatExec i 9 s = .next t ∧ t.a = s.a ∧ t.flag .c = s.flag .c

/-- PHA writes A at 0x0100 + SP and decrements SP. R200, R203. -/
def Obligations.PhaPushesAccumulator : Prop :=
  ∀ s : State, ∃ t, exec .pha s = .next t ∧ t.read (stackCell s.sp) = s.a ∧ t.sp.toNat = (s.sp.toNat + 255) % 256 ∧
    t.pc = s.pc + 1 ∧ ChangesOnly [.sp] [] [stackCell s.sp] s t

/-- PLA increments SP, then reads A at 0x0100 + SP and sets Z and N. R205. -/
def Obligations.PlaPullsAccumulator : Prop :=
  ∀ s : State, ∃ t, exec .pla s = .next t ∧ t.sp.toNat = (s.sp.toNat + 1) % 256 ∧ t.a = s.read (stackCell t.sp) ∧
    ZeroNegativeOf t.a t ∧ t.pc = s.pc + 1 ∧ ChangesOnly [.a, .sp] [.z, .n] [] s t

/-- PHP pushes the live P bit for bit and PLP loads all eight bits. The spec's decisions D18 and D29 for bits 4 and 5;
log 7. -/
def Obligations.PhpPlpMoveWholeStatus : Prop :=
  ∀ s : State,
    (∃ t, exec .php s = .next t ∧ t.read (stackCell s.sp) = s.p ∧ t.sp = s.sp - 1 ∧ t.pc = s.pc + 1 ∧
      ChangesOnly [.sp] [] [stackCell s.sp] s t) ∧
    (∃ t, exec .plp s = .next t ∧ t.sp = s.sp + 1 ∧ t.p = s.read (stackCell t.sp) ∧ t.pc = s.pc + 1 ∧
      ChangesOnly [.sp] [.c, .z, .i, .d, .b, .u, .v, .n] [] s t)

/-- PHP then PLP restores P and SP; PHA then PLA restores A and SP, at every SP. R201 (marked derived): "`pull()` after
`push(v)` with nothing between returns `v` and restores SP". -/
def Obligations.PushThenPullRestores : Prop :=
  ∀ s : State,
    (∃ t u, exec .php s = .next t ∧ exec .plp t = .next u ∧ u.p = s.p ∧ u.sp = s.sp) ∧
    (∃ t u, exec .pha s = .next t ∧ exec .pla t = .next u ∧ u.a = s.a ∧ u.sp = s.sp)

/-- JMP goes to its address; indirect takes the target from the pointer with the page-wrap bug. R110, R210. -/
def Obligations.JumpGoesToResolvedAddress : Prop :=
  ∀ (w : Word) (s : State),
    (∃ t, exec (.jmpAbs w) s = .next t ∧ t.pc = w ∧ ChangesOnly [] [] [] s t) ∧
    (∃ t, exec (.jmpInd w) s = .next t ∧
      (w.toNat % 256 = 255 → t.pc.toNat = (s.read w).toNat + 256 * (s.read (w &&& 0xFF00)).toNat) ∧
      (w.toNat % 256 ≠ 255 → t.pc.toNat = (s.read w).toNat + 256 * (s.read (w + 1)).toNat) ∧
      ChangesOnly [] [] [] s t)

/-- JSR pushes P0 + 2, high byte first, and jumps to the operand it fetched, wherever the pushes fall. R211, with the
spec's decisions D3 for the push order (log 5) and D15 for the operand read before the pushes (R62; log 13). -/
def Obligations.JsrPushesReturnAndJumps : Prop :=
  ∀ (w : Word) (s : State),
    ∃ t, exec (.jsr w) s = .next t ∧ t.pc = w ∧
      (t.read (stackCell s.sp)).toNat = ((s.pc.toNat + 2) % 65536) / 256 ∧
      (t.read (stackCell (s.sp - 1))).toNat = (s.pc.toNat + 2) % 256 ∧ t.sp = s.sp - 2 ∧
      ChangesOnly [.sp] [] [stackCell s.sp, stackCell (s.sp - 1)] s t ∧
      ∀ rest, decode s.fetchBytes = .ok (.jsr w, rest) → step s = .next t

/-- RTS pulls low, then high, and continues one past them. R212, which the spec builds from the test "pull low, pull
high, add 1" of its source (N7). -/
def Obligations.RtsPullsReturnPlusOne : Prop :=
  ∀ s : State, ∃ t, exec .rts s = .next t ∧ t.sp = s.sp + 2 ∧
    t.pc.toNat = ((s.read (stackCell (s.sp + 1))).toNat + 256 * (s.read (stackCell (s.sp + 2))).toNat + 1) % 65536 ∧
    ChangesOnly [.sp] [] [] s t

/-- After JSR and any code that keeps SP and the two pushed bytes, RTS returns to P + 3. The round trip of R212 and E8:
"reconstructs exactly P+3". -/
def Obligations.JsrRtsRoundTrip : Prop :=
  ∀ (w : Word) (s t u : State), exec (.jsr w) s = .next t → u.sp = t.sp →
    u.read (stackCell s.sp) = t.read (stackCell s.sp) → u.read (stackCell (s.sp - 1)) = t.read (stackCell (s.sp - 1)) →
    ∃ v, exec .rts u = .next v ∧ v.pc = s.pc + 3 ∧ v.sp = s.sp

/-- RTI pulls P, then low and high byte of PC, and adds nothing. R213 with the spec's decision D29; log 7. -/
def Obligations.RtiRestoresStatusAndPc : Prop :=
  ∀ s : State, ∃ t, exec .rti s = .next t ∧ t.sp = s.sp + 3 ∧ t.p = s.read (stackCell (s.sp + 1)) ∧
    t.pc.toNat = (s.read (stackCell (s.sp + 2))).toNat + 256 * (s.read (stackCell (s.sp + 3))).toNat ∧
    ChangesOnly [.sp] [.c, .z, .i, .d, .b, .u, .v, .n] [] s t

/-- BRK pushes P0 + 2 and P with B and I set, sets I, clears B and goes through the vector. R223 and R253 with the
spec's decisions D3, D4 and D5; log 5. -/
def Obligations.BrkSavesStateAndEntersVector : Prop :=
  ∀ s : State, ∃ t, exec .brk s = .next t ∧
    (t.read (stackCell s.sp)).toNat = ((s.pc.toNat + 2) % 65536) / 256 ∧
    (t.read (stackCell (s.sp - 1))).toNat = (s.pc.toNat + 2) % 256 ∧
    t.read (stackCell (s.sp - 2)) = s.p ||| 0x14 ∧ t.sp = s.sp - 3 ∧ t.flag .i = true ∧ t.flag .b = false ∧
    t.pc.toNat = (s.read 0xFFFE).toNat + 256 * (s.read 0xFFFF).toNat ∧
    ChangesOnly [.sp] [.i, .b] [stackCell s.sp, stackCell (s.sp - 1), stackCell (s.sp - 2)] s t

/-- After BRK and any handler that keeps SP and the three saved bytes, RTI resumes at P0 + 2 with B and I set in the old
P. R255 and the consequences R213 marks derived (D5, D29; logs 5 and 7). -/
def Obligations.BrkRtiRoundTrip : Prop :=
  ∀ (s t u : State), exec .brk s = .next t → u.sp = t.sp →
    u.read (stackCell s.sp) = t.read (stackCell s.sp) → u.read (stackCell (s.sp - 1)) = t.read (stackCell (s.sp - 1)) →
    u.read (stackCell (s.sp - 2)) = t.read (stackCell (s.sp - 2)) →
    ∃ v, exec .rti u = .next v ∧ v.pc = s.pc + 2 ∧ v.sp = s.sp ∧ v.p = s.p ||| 0x14

/-- BEQ goes to P0 + 2 + (b0 - 128) if Z is set and to P0 + 2 otherwise. R214, R217. The offset `b0 - 128` is what R214
writes; R86 names the reading a decision (D2; log 3). -/
def Obligations.BeqBranchesOnZero : Prop :=
  ∀ (o : Byte) (s : State), ∃ t, exec (.beq o) s = .next t ∧
    (s.flag .z = true → t.pc = BitVec.ofInt 16 (s.pc.toNat + 2 + ((o.toNat : Int) - 128))) ∧
    (s.flag .z = false → t.pc = s.pc + 2) ∧ ChangesOnly [] [] [] s t

/-- Each of the eight branches tests its flag and adds the excess-128 offset to P0 + 2. R215 to R222: the conditions are
marked [from general knowledge, not in source] but for BEQ; logs 3 and 4. -/
def Obligations.BranchesTestTheirFlag : Prop :=
  ∀ (i : Instr) (f : Flag) (on : Bool) (o : Byte) (s : State), (i.mnemonic, f, on) ∈ branchConditions →
    i.operand = .rel o → ∃ t, exec i s = .next t ∧
      (s.flag f = on → t.pc = BitVec.ofInt 16 (s.pc.toNat + 2 + ((o.toNat : Int) - 128))) ∧
      (s.flag f ≠ on → t.pc = s.pc + 2) ∧ ChangesOnly [] [] [] s t

/-- CLC, CLD, CLI and CLV clear their flag and nothing else. R240, R241, R242, R243. -/
def Obligations.FlagClearsClearOneFlag : Prop :=
  ∀ (i : Instr) (f : Flag) (s : State),
    (i, f) ∈ [(Instr.clc, Flag.c), (.cld, .d), (.cli, .i), (.clv, .v)] →
    ∃ t, exec i s = .next t ∧ t.flag f = false ∧ t.pc = s.pc + 1 ∧ ChangesOnly [] [f] [] s t

/-- SEC, SED and SEI set their flag and nothing else. The spec marks R244 to R246 [from general knowledge, not in
source] (92_eei_decisions.md D11); log 4. -/
def Obligations.FlagSetsSetOneFlag : Prop :=
  ∀ (i : Instr) (f : Flag) (s : State), (i, f) ∈ [(Instr.sec, Flag.c), (.sed, .d), (.sei, .i)] →
    ∃ t, exec i s = .next t ∧ t.flag f = true ∧ t.pc = s.pc + 1 ∧ ChangesOnly [] [f] [] s t

/-- NOP only advances PC by one. R224. -/
def Obligations.NopOnlyAdvancesPc : Prop :=
  ∀ s : State, ∃ t, exec .nop s = .next t ∧ t.pc = s.pc + 1 ∧ ChangesOnly [] [] [] s t

/-- Every instruction but the control transfers leaves PC at P0 + L. R101. -/
def Obligations.SequentialInstructionsAdvancePc : Prop :=
  ∀ (i : Instr) (s : State), i.mnemonic ∉ controlTransfers → ∃ t, exec i s = .next t ∧
    (i.mode ∈ [Mode.imp, .acc] → t.pc.toNat = (s.pc.toNat + 1) % 65536) ∧
    (i.mode ∈ [Mode.imm, .zp, .zpx, .zpy, .indx, .indy, .rel] → t.pc.toNat = (s.pc.toNat + 2) % 65536) ∧
    (i.mode ∈ [Mode.abs, .absx, .absy, .ind] → t.pc.toNat = (s.pc.toNat + 3) % 65536)

/-- A flag changes only under an instruction that the table of R35 lists as its writer. R35, a table the spec marks
derived. -/
def Obligations.OnlyListedInstructionsWriteFlags : Prop :=
  ∀ (i : Instr) (f : Flag) (s t : State), exec i s = .next t → i.mnemonic ∉ flagWriters f → t.flag f = s.flag f

/-- A, X, Y and SP change only under the instructions whose rules write them. Collected from R21 to R25 and the
instruction rules; R141 for SP; R190 for the memory modes. -/
def Obligations.OnlyListedInstructionsWriteRegisters : Prop :=
  ∀ (i : Instr) (r : Reg) (s t : State), exec i s = .next t →
    (i.mnemonic ∉ registerWriters r → t.reg r = s.reg r) ∧
    (i.mnemonic ∈ [Mnemonic.asl, .lsr, .rol, .ror] → i.mode ≠ .acc → t.reg r = s.reg r)

/-- Memory changes only under stores, memory read-modify-writes and pushes. Collected from R116, R118 and the
instruction rules; in Accumulator mode an operation "must not touch memory". -/
def Obligations.OnlyListedInstructionsWriteMemory : Prop :=
  ∀ (i : Instr) (s t : State), exec i s = .next t → i.mnemonic ∉ memoryWriters ∨ i.mode = .acc →
    ∀ w, t.read w = s.read w

/-- PHA, PHP, JSR and BRK write only addresses 0x0100 to 0x01FF, at every SP. R25: "always within 0x0100 to 0x01FF"; its
wrap cases are marked derived. -/
def Obligations.PushesStayInStackPage : Prop :=
  ∀ (i : Instr) (s t : State), i.mnemonic ∈ [Mnemonic.pha, .php, .jsr, .brk] → exec i s = .next t →
    ∀ w : Word, w.toNat < 0x0100 ∨ 0x01FF < w.toNat → t.read w = s.read w

/-- I, D, B and U have no effect on execution: every instruction runs alike in two states that differ only in them. Only
the status byte that PHP and BRK push shows the difference, in the one cell it goes to. R35 (readers), R33, R34, R172 and
R256; D inert is the decision D10 and I inert the decision D26 (logs 10 and 17). -/
def Obligations.UntestedFlagsHaveNoEffect : Prop :=
  ∀ (i : Instr) (s : State) (p : Byte), (∀ f ∈ testedFlags, getFlag p f = s.flag f) →
    ∃ t u, exec i s = .next t ∧ exec i (s.setP p) = .next u ∧ (∀ r, u.reg r = t.reg r) ∧ u.pc = t.pc ∧
      (∀ f ∈ testedFlags, u.flag f = t.flag f) ∧
      ∀ w, (i.mnemonic = .php → w ≠ stackCell s.sp) → (i.mnemonic = .brk → w ≠ stackCell (s.sp - 2)) →
        u.read w = t.read w

/-- Every decoded instruction completes in every state: no instruction faults and none is refused. R258: no instruction
but an undefined opcode ends a step in an error; R252 is unreachable (D23). -/
def Obligations.EveryInstructionCompletes : Prop :=
  ∀ (i : Instr) (s : State), ∃ t, exec i s = .next t

/-- A step is exec of the instruction decoded from the bytes at PC, and nothing around it. R100; what the fault carries
is the decision D20 of the spec. -/
def Obligations.StepRunsDecodedInstruction : Prop :=
  ∀ s : State,
    (∀ i rest, decode [s.read s.pc, s.read (s.pc + 1), s.read (s.pc + 2)] = .ok (i, rest) → step s = exec i s) ∧
    (∀ op, decode [s.read s.pc, s.read (s.pc + 1), s.read (s.pc + 2)] = .error (.undefinedOpcode op) →
      step s = .fault (.undefinedOpcode op s.pc))

/-- A clock on one of the 105 undefined bytes signals UndefinedOpcode(byte, P0) and changes nothing. R251 and R88; the
set is general knowledge (D1, log 2), the unchanged state the decision D12 (log 11). -/
def Obligations.UndefinedOpcodeKeepsStateAndSignals : Prop :=
  ∀ s : State, s.read s.pc ∈ undefinedBytes →
    s.drive .clock = { state := s, signal := some (.undefinedOpcode (s.read s.pc) s.pc) }

/-- A step on any other byte completes, and no step ever signals ContractViolation. R251: "no other condition does"
raise it; R252: ContractViolation has no cause (D23). -/
def Obligations.DefinedOpcodeAlwaysSteps : Prop :=
  ∀ s : State, (s.read s.pc ∉ undefinedBytes → ∃ t, step s = .next t) ∧ step s ≠ .fault .contractViolation ∧
    ∀ r, step s ≠ .refused r

/-- Decoding the encoding of a well-formed instruction gives it back, with every operand value. R87 (the decoder) and
R94 (the encoder) are two transcriptions of one map; its bytes are general knowledge (D1, log 2). -/
def Obligations.DecodeOfEncodeIsInstruction : Prop :=
  ∀ (i : Instr) (rest : List Byte), i.wf = true → decode (encode i ++ rest) = .ok (i, rest)

/-- Bytes that decode to an instruction are its encoding: each byte sequence has one meaning. R80, R83 and R91: the
inverse lookup recovers the opcode byte of a pair (D1, log 2). -/
def Obligations.EncodeOfDecodeIsBytes : Prop :=
  ∀ (bs : List Byte) (i : Instr) (rest : List Byte), decode bs = .ok (i, rest) → encode i ++ rest = bs

/-- The opcode byte alone fixes legality, mnemonic, mode and length. R80, R83, R89 and R90; which bytes are undefined is
general knowledge (D1, log 2). -/
def Obligations.OpcodeByteAloneDecides : Prop :=
  ∀ op : Byte,
    (op ∈ undefinedBytes ∧ ∀ bs, decode (op :: bs) = .error (.undefinedOpcode op)) ∨
    (op ∉ undefinedBytes ∧ ∃ (n : Mnemonic) (k : Mode), ∀ (b0 b1 : Byte) (bs : List Byte),
      ∃ i rest, decode (op :: b0 :: b1 :: bs) = .ok (i, rest) ∧ i.mnemonic = n ∧ i.mode = k ∧
        rest.length + operandLength i.operand = bs.length + 3)

/-- The example words of R92 and one word of each family decode to their instructions. R92 and R94; the opcode bytes are
general knowledge (D1, log 2). -/
def Obligations.SampleWordsDecode : Prop :=
  decode [0xE8] = .ok (.inx, []) ∧ decode [0x4A] = .ok (.lsrAcc, []) ∧ decode [0xA9, 0x10] = .ok (.ldaImm 0x10, []) ∧
  decode [0xA5, 0x10] = .ok (.ldaZp 0x10, []) ∧ decode [0xB5, 0x10] = .ok (.ldaZpx 0x10, []) ∧
  decode [0xB6, 0x10] = .ok (.ldxZpy 0x10, []) ∧ decode [0xAD, 0x34, 0x12] = .ok (.ldaAbs 0x1234, []) ∧
  decode [0xBD, 0x34, 0x12] = .ok (.ldaAbsx 0x1234, []) ∧ decode [0xB9, 0x34, 0x12] = .ok (.ldaAbsy 0x1234, []) ∧
  decode [0x6C, 0x34, 0x12] = .ok (.jmpInd 0x1234, []) ∧ decode [0xA1, 0x10] = .ok (.ldaIndx 0x10, []) ∧
  decode [0xB1, 0x10] = .ok (.ldaIndy 0x10, []) ∧ decode [0xD0, 0x7D] = .ok (.bne 0x7D, []) ∧
  decode [0x8D, 0x00, 0x02] = .ok (.staAbs 0x0200, []) ∧ decode [0xC9, 0x50] = .ok (.cmpImm 0x50, []) ∧
  decode [0x69, 0x20] = .ok (.adcImm 0x20, []) ∧ decode [0x08] = .ok (.php, []) ∧ decode [0x00] = .ok (.brk, []) ∧
  decode [0x78] = .ok (.sei, [])

/-- An Immediate operand is the byte at P0 + 1, and that is its address. R103. -/
def Obligations.ImmediateOperandIsByteAfterOpcode : Prop :=
  ∀ (s : State) (i : Instr) (rest : List Byte), decode s.fetchBytes = .ok (i, rest) → i.mode = .imm →
    (resolve i.operand s).address = some (s.pc + 1) ∧ operandValue i.operand s = some (s.read (s.pc + 1))

/-- ZeroPage, ZeroPageX and ZeroPageY give an address below 0x0100, indexed modulo 256. R104, R105, R106. -/
def Obligations.ZeroPageModesStayInPageZero : Prop :=
  ∀ (s : State) (i : Instr) (rest : List Byte), decode s.fetchBytes = .ok (i, rest) →
    (i.mode = .zp → ∃ w, (resolve i.operand s).address = some w ∧
      w.toNat = (s.read (s.pc + 1)).toNat) ∧
    (i.mode = .zpx → ∃ w, (resolve i.operand s).address = some w ∧
      w.toNat = ((s.read (s.pc + 1)).toNat + s.x.toNat) % 256) ∧
    (i.mode = .zpy → ∃ w, (resolve i.operand s).address = some w ∧
      w.toNat = ((s.read (s.pc + 1)).toNat + s.y.toNat) % 256)

/-- Absolute modes take low byte then high byte, and index modulo 65536. R107, R108, R109; the wrap is marked derived,
from R10. -/
def Obligations.AbsoluteModesAssembleAndIndex : Prop :=
  ∀ (s : State) (i : Instr) (rest : List Byte), decode s.fetchBytes = .ok (i, rest) →
    (i.mode = .abs → ∃ w, (resolve i.operand s).address = some w ∧
      w.toNat = (s.read (s.pc + 1)).toNat + 256 * (s.read (s.pc + 2)).toNat) ∧
    (i.mode = .absx → ∃ w, (resolve i.operand s).address = some w ∧
      w.toNat = ((s.read (s.pc + 1)).toNat + 256 * (s.read (s.pc + 2)).toNat + s.x.toNat) % 65536) ∧
    (i.mode = .absy → ∃ w, (resolve i.operand s).address = some w ∧
      w.toNat = ((s.read (s.pc + 1)).toNat + 256 * (s.read (s.pc + 2)).toNat + s.y.toNat) % 65536)

/-- PreIndexedIndirect reads both pointer bytes in page zero at b0 + X. R111. -/
def Obligations.PreIndexedIndirectReadsPointerInPageZero : Prop :=
  ∀ (s : State) (i : Instr) (rest : List Byte), decode s.fetchBytes = .ok (i, rest) →
    (i.mode = .indx → ∃ w, (resolve i.operand s).address = some w ∧
      w.toNat = (s.read (BitVec.ofNat 16 (((s.read (s.pc + 1)).toNat + s.x.toNat) % 256))).toNat +
        256 * (s.read (BitVec.ofNat 16 (((s.read (s.pc + 1)).toNat + s.x.toNat + 1) % 256))).toNat)

/-- PostIndexedIndirect reads the base in page zero at b0 and adds Y modulo 65536. R112, whose wrap at zp = 0xFF is the
spec's decision D9; log 9. -/
def Obligations.PostIndexedIndirectAddsYToPointer : Prop :=
  ∀ (s : State) (i : Instr) (rest : List Byte), decode s.fetchBytes = .ok (i, rest) →
    (i.mode = .indy → ∃ w, (resolve i.operand s).address = some w ∧
      w.toNat = ((s.read (BitVec.ofNat 16 (s.read (s.pc + 1)).toNat)).toNat +
        256 * (s.read (BitVec.ofNat 16 (((s.read (s.pc + 1)).toNat + 1) % 256))).toNat + s.y.toNat) % 65536)

/-- Relative mode, and it alone, gives the delta b0 - 128; Accumulator and Implied give no address. R113 to R115 and
R86; excess-128 is the spec's decision D2 (log 3), "no address" is U7 in place of the sentinel (D25). -/
def Obligations.RelativeModeGivesOffset : Prop :=
  ∀ (s : State) (i : Instr) (rest : List Byte), decode s.fetchBytes = .ok (i, rest) →
    (i.mode = .rel → ∃ off, (resolve i.operand s).relativeAddress = some off ∧
      off = BitVec.ofInt 16 (((s.read (s.pc + 1)).toNat : Int) - 128) ∧
      (resolve i.operand s).address = some (s.pc + 1 + off)) ∧
    (i.mode ≠ .rel → (resolve i.operand s).relativeAddress = none) ∧
    (i.mode = .acc ∨ i.mode = .imp → (resolve i.operand s).address = none)

/-- An instruction at 0xFFFF has its operand bytes at 0x0000 and 0x0001. R24, a wrap case the spec marks derived. -/
def Obligations.FetchWrapsPastTopOfMemory : Prop :=
  ∀ s : State, s.pc = 0xFFFF → s.fetchBytes = [s.read 0xFFFF, s.read 0x0000, s.read 0x0001]

/-- A store to any byte of the next instruction is what the next step fetches, its other bytes being as before; after any
instruction that does not transfer control the next fetch is of memory as the instruction left it; and a JSR that
overwrites its own operand still goes to it. R65 and R62 (marked derived and D15; log 13). -/
def Obligations.StoreIsSeenByNextFetch : Prop :=
  ∀ s : State,
    (∀ (i : Instr) (r : Reg) (k : Nat), (i.mnemonic, r) ∈ [(Mnemonic.sta, Reg.a), (.stx, .x), (.sty, .y)] → k < 3 →
      (resolve i.operand s).address = some (s.pc + BitVec.ofNat 16 (operandLength i.operand + k)) →
      ∃ t, exec i s = .next t ∧ t.fetchBytes[k]? = some (s.reg r) ∧
        ∀ j, j < 3 → j ≠ k →
          t.fetchBytes[j]? = some (s.read (s.pc + BitVec.ofNat 16 (operandLength i.operand + j)))) ∧
    (∀ i : Instr, i.mnemonic ∉ controlTransfers → ∃ t, exec i s = .next t ∧
      ∀ j, j < 3 → t.fetchBytes[j]? = some (t.read (s.pc + BitVec.ofNat 16 (operandLength i.operand + j)))) ∧
    (∀ w rest, decode s.fetchBytes = .ok (.jsr w, rest) → ∃ t, step s = .next t ∧ t.pc = w)

/-- A write makes its byte the one read at its address and changes no other address. R51. -/
def Obligations.ReadAfterWrite : Prop :=
  ∀ (s : State) (a b : Word) (v : Byte), (s.write a v).read a = v ∧ (b ≠ a → (s.write a v).read b = s.read b)

/-- From power-up, whatever is written elsewhere, an address that no write has named reads zero. R52. -/
def Obligations.UnwrittenMemoryReadsZero : Prop :=
  ∀ (a : Word) (writes : List (Word × Byte)), (∀ w ∈ writes, w.1 ≠ a) →
    (writes.foldl (fun s w => s.write w.1 w.2) State.reset).read a = 0x00

/-- Every step keeps the canonical form of memory. The form is the model's own (log 19): it makes equal memories of R50
to R52 equal data. -/
def Obligations.StepKeepsMemoryCanonical : Prop :=
  ∀ s t : State, s.inv = true → step s = .next t → t.inv = true

/-- The state after power-up has its memory in canonical form, and a reset command keeps the form. The form is the
model's own (log 19). -/
def Obligations.ResetMemoryIsCanonical : Prop :=
  State.reset.inv = true ∧ ∀ (s : State) (a : Byte), s.inv = true → (s.drive (.reset a)).state.inv = true

/-- reset puts PC, SP, P, X and Y at their values and touches no memory; A may be any byte. R40 and R280, with the
spec's decisions D6, D7, D8 and D24; logs 1, 6 and 20. -/
def Obligations.ResetSetsRegistersAndKeepsMemory : Prop :=
  (State.reset.pc = 0x0000 ∧ State.reset.sp = 0xFF ∧ State.reset.p = 0x00 ∧ State.reset.x = 0x00 ∧ State.reset.y = 0x00) ∧
  ∀ (s : State) (a : Byte), (s.drive (.reset a)).signal = none ∧
    (s.drive (.reset a)).state.pc = 0x0000 ∧ (s.drive (.reset a)).state.sp = 0xFF ∧
    (s.drive (.reset a)).state.p = 0x00 ∧ (s.drive (.reset a)).state.x = 0x00 ∧
    (s.drive (.reset a)).state.y = 0x00 ∧ (s.drive (.reset a)).state.a = a ∧
    ∀ w, (s.drive (.reset a)).state.read w = s.read w
end

