-- ==== Sys2Proof/Laws/State.lean ====
section
/-! SUPPORT. One lemma per field per update of the state, so that no later proof unfolds a record update. -/

namespace Sys2Proof.Machine.State

variable (s : State)

@[simp] theorem setA_a (v : Byte) : (s.setA v).a = v := rfl
@[simp] theorem setA_x (v : Byte) : (s.setA v).x = s.x := rfl
@[simp] theorem setA_y (v : Byte) : (s.setA v).y = s.y := rfl
@[simp] theorem setA_pc (v : Byte) : (s.setA v).pc = s.pc := rfl
@[simp] theorem setA_sp (v : Byte) : (s.setA v).sp = s.sp := rfl
@[simp] theorem setA_p (v : Byte) : (s.setA v).p = s.p := rfl
@[simp] theorem setA_mem (v : Byte) : (s.setA v).mem = s.mem := rfl
@[simp] theorem setA_read (v : Byte) (w : Word) : (s.setA v).read w = s.read w := rfl
@[simp] theorem setA_flag (v : Byte) (f : Flag) : (s.setA v).flag f = s.flag f := rfl

@[simp] theorem setX_a (v : Byte) : (s.setX v).a = s.a := rfl
@[simp] theorem setX_x (v : Byte) : (s.setX v).x = v := rfl
@[simp] theorem setX_y (v : Byte) : (s.setX v).y = s.y := rfl
@[simp] theorem setX_pc (v : Byte) : (s.setX v).pc = s.pc := rfl
@[simp] theorem setX_sp (v : Byte) : (s.setX v).sp = s.sp := rfl
@[simp] theorem setX_p (v : Byte) : (s.setX v).p = s.p := rfl
@[simp] theorem setX_mem (v : Byte) : (s.setX v).mem = s.mem := rfl
@[simp] theorem setX_read (v : Byte) (w : Word) : (s.setX v).read w = s.read w := rfl
@[simp] theorem setX_flag (v : Byte) (f : Flag) : (s.setX v).flag f = s.flag f := rfl

@[simp] theorem setY_a (v : Byte) : (s.setY v).a = s.a := rfl
@[simp] theorem setY_x (v : Byte) : (s.setY v).x = s.x := rfl
@[simp] theorem setY_y (v : Byte) : (s.setY v).y = v := rfl
@[simp] theorem setY_pc (v : Byte) : (s.setY v).pc = s.pc := rfl
@[simp] theorem setY_sp (v : Byte) : (s.setY v).sp = s.sp := rfl
@[simp] theorem setY_p (v : Byte) : (s.setY v).p = s.p := rfl
@[simp] theorem setY_mem (v : Byte) : (s.setY v).mem = s.mem := rfl
@[simp] theorem setY_read (v : Byte) (w : Word) : (s.setY v).read w = s.read w := rfl
@[simp] theorem setY_flag (v : Byte) (f : Flag) : (s.setY v).flag f = s.flag f := rfl

@[simp] theorem setPc_a (v : Word) : (s.setPc v).a = s.a := rfl
@[simp] theorem setPc_x (v : Word) : (s.setPc v).x = s.x := rfl
@[simp] theorem setPc_y (v : Word) : (s.setPc v).y = s.y := rfl
@[simp] theorem setPc_pc (v : Word) : (s.setPc v).pc = v := rfl
@[simp] theorem setPc_sp (v : Word) : (s.setPc v).sp = s.sp := rfl
@[simp] theorem setPc_p (v : Word) : (s.setPc v).p = s.p := rfl
@[simp] theorem setPc_mem (v : Word) : (s.setPc v).mem = s.mem := rfl
@[simp] theorem setPc_read (v : Word) (w : Word) : (s.setPc v).read w = s.read w := rfl
@[simp] theorem setPc_flag (v : Word) (f : Flag) : (s.setPc v).flag f = s.flag f := rfl
@[simp] theorem setPc_reg (v : Word) (r : Reg) : (s.setPc v).reg r = s.reg r := by cases r <;> rfl

@[simp] theorem setSp_a (v : Byte) : (s.setSp v).a = s.a := rfl
@[simp] theorem setSp_x (v : Byte) : (s.setSp v).x = s.x := rfl
@[simp] theorem setSp_y (v : Byte) : (s.setSp v).y = s.y := rfl
@[simp] theorem setSp_pc (v : Byte) : (s.setSp v).pc = s.pc := rfl
@[simp] theorem setSp_sp (v : Byte) : (s.setSp v).sp = v := rfl
@[simp] theorem setSp_p (v : Byte) : (s.setSp v).p = s.p := rfl
@[simp] theorem setSp_mem (v : Byte) : (s.setSp v).mem = s.mem := rfl
@[simp] theorem setSp_read (v : Byte) (w : Word) : (s.setSp v).read w = s.read w := rfl
@[simp] theorem setSp_flag (v : Byte) (f : Flag) : (s.setSp v).flag f = s.flag f := rfl

@[simp] theorem setP_a (v : Byte) : (s.setP v).a = s.a := rfl
@[simp] theorem setP_x (v : Byte) : (s.setP v).x = s.x := rfl
@[simp] theorem setP_y (v : Byte) : (s.setP v).y = s.y := rfl
@[simp] theorem setP_pc (v : Byte) : (s.setP v).pc = s.pc := rfl
@[simp] theorem setP_sp (v : Byte) : (s.setP v).sp = s.sp := rfl
@[simp] theorem setP_p (v : Byte) : (s.setP v).p = v := rfl
@[simp] theorem setP_mem (v : Byte) : (s.setP v).mem = s.mem := rfl
@[simp] theorem setP_read (v : Byte) (w : Word) : (s.setP v).read w = s.read w := rfl
@[simp] theorem setP_reg (v : Byte) (r : Reg) : (s.setP v).reg r = s.reg r := by cases r <;> rfl
@[simp] theorem setP_flag (v : Byte) (f : Flag) : (s.setP v).flag f = getFlag v f := rfl

@[simp] theorem write_a (w : Word) (v : Byte) : (s.write w v).a = s.a := rfl
@[simp] theorem write_x (w : Word) (v : Byte) : (s.write w v).x = s.x := rfl
@[simp] theorem write_y (w : Word) (v : Byte) : (s.write w v).y = s.y := rfl
@[simp] theorem write_pc (w : Word) (v : Byte) : (s.write w v).pc = s.pc := rfl
@[simp] theorem write_sp (w : Word) (v : Byte) : (s.write w v).sp = s.sp := rfl
@[simp] theorem write_p (w : Word) (v : Byte) : (s.write w v).p = s.p := rfl
@[simp] theorem write_mem (w : Word) (v : Byte) : (s.write w v).mem = s.mem.write w.toNat v := rfl
@[simp] theorem write_flag (w : Word) (v : Byte) (f : Flag) : (s.write w v).flag f = s.flag f := rfl
@[simp] theorem write_reg (w : Word) (v : Byte) (r : Reg) : (s.write w v).reg r = s.reg r := by cases r <;> rfl
@[simp] theorem write_stackTop (w : Word) (v : Byte) : (s.write w v).stackTop = s.stackTop := rfl

@[simp] theorem reg_a : s.reg .a = s.a := rfl
@[simp] theorem reg_x : s.reg .x = s.x := rfl
@[simp] theorem reg_y : s.reg .y = s.y := rfl
@[simp] theorem reg_sp : s.reg .sp = s.sp := rfl
@[simp] theorem setReg_a (v : Byte) : s.setReg .a v = s.setA v := rfl
@[simp] theorem setReg_x (v : Byte) : s.setReg .x v = s.setX v := rfl
@[simp] theorem setReg_y (v : Byte) : s.setReg .y v = s.setY v := rfl
@[simp] theorem setReg_sp (v : Byte) : s.setReg .sp v = s.setSp v := rfl
@[simp] theorem setReg_pc (r : Reg) (v : Byte) : (s.setReg r v).pc = s.pc := by cases r <;> rfl
@[simp] theorem setReg_p (r : Reg) (v : Byte) : (s.setReg r v).p = s.p := by cases r <;> rfl
@[simp] theorem setReg_mem (r : Reg) (v : Byte) : (s.setReg r v).mem = s.mem := by cases r <;> rfl
@[simp] theorem setReg_flag (r : Reg) (v : Byte) (f : Flag) : (s.setReg r v).flag f = s.flag f := by cases r <;> rfl
@[simp] theorem setReg_read (r : Reg) (v : Byte) (w : Word) : (s.setReg r v).read w = s.read w := by cases r <;> rfl
@[simp] theorem setReg_reg (r : Reg) (v : Byte) : (s.setReg r v).reg r = v := by cases r <;> rfl
theorem setReg_reg_ne {r q : Reg} (v : Byte) (h : q ≠ r) : (s.setReg r v).reg q = s.reg q := by
  cases r <;> cases q <;> first | rfl | exact absurd rfl h

@[simp] theorem putFlag_a (g : Flag) (on : Bool) : (s.putFlag g on).a = s.a := rfl
@[simp] theorem putFlag_x (g : Flag) (on : Bool) : (s.putFlag g on).x = s.x := rfl
@[simp] theorem putFlag_y (g : Flag) (on : Bool) : (s.putFlag g on).y = s.y := rfl
@[simp] theorem putFlag_pc (g : Flag) (on : Bool) : (s.putFlag g on).pc = s.pc := rfl
@[simp] theorem putFlag_sp (g : Flag) (on : Bool) : (s.putFlag g on).sp = s.sp := rfl
@[simp] theorem putFlag_mem (g : Flag) (on : Bool) : (s.putFlag g on).mem = s.mem := rfl
@[simp] theorem putFlag_p (g : Flag) (on : Bool) : (s.putFlag g on).p = setFlag s.p g on := rfl
@[simp] theorem putFlag_read (g : Flag) (on : Bool) (w : Word) : (s.putFlag g on).read w = s.read w := rfl
@[simp] theorem putFlag_reg (g : Flag) (on : Bool) (r : Reg) : (s.putFlag g on).reg r = s.reg r := by cases r <;> rfl

@[simp] theorem zn_a (v : Byte) : (s.zn v).a = s.a := rfl
@[simp] theorem zn_x (v : Byte) : (s.zn v).x = s.x := rfl
@[simp] theorem zn_y (v : Byte) : (s.zn v).y = s.y := rfl
@[simp] theorem zn_pc (v : Byte) : (s.zn v).pc = s.pc := rfl
@[simp] theorem zn_sp (v : Byte) : (s.zn v).sp = s.sp := rfl
@[simp] theorem zn_mem (v : Byte) : (s.zn v).mem = s.mem := rfl
@[simp] theorem zn_p (v : Byte) : (s.zn v).p = setZN v s.p := rfl
@[simp] theorem zn_read (v : Byte) (w : Word) : (s.zn v).read w = s.read w := rfl
@[simp] theorem zn_reg (v : Byte) (r : Reg) : (s.zn v).reg r = s.reg r := by cases r <;> rfl

@[simp] theorem advance_a (n : Nat) : (s.advance n).a = s.a := rfl
@[simp] theorem advance_x (n : Nat) : (s.advance n).x = s.x := rfl
@[simp] theorem advance_y (n : Nat) : (s.advance n).y = s.y := rfl
@[simp] theorem advance_sp (n : Nat) : (s.advance n).sp = s.sp := rfl
@[simp] theorem advance_p (n : Nat) : (s.advance n).p = s.p := rfl
@[simp] theorem advance_mem (n : Nat) : (s.advance n).mem = s.mem := rfl
@[simp] theorem advance_pc (n : Nat) : (s.advance n).pc = s.pc + BitVec.ofNat 16 n := rfl
@[simp] theorem advance_read (n : Nat) (w : Word) : (s.advance n).read w = s.read w := rfl
@[simp] theorem advance_flag (n : Nat) (f : Flag) : (s.advance n).flag f = s.flag f := rfl
@[simp] theorem advance_reg (n : Nat) (r : Reg) : (s.advance n).reg r = s.reg r := by cases r <;> rfl

@[simp] theorem push_a (v : Byte) : (s.push v).a = s.a := rfl
@[simp] theorem push_x (v : Byte) : (s.push v).x = s.x := rfl
@[simp] theorem push_y (v : Byte) : (s.push v).y = s.y := rfl
@[simp] theorem push_pc (v : Byte) : (s.push v).pc = s.pc := rfl
@[simp] theorem push_p (v : Byte) : (s.push v).p = s.p := rfl
@[simp] theorem push_sp (v : Byte) : (s.push v).sp = s.sp - 1 := rfl
@[simp] theorem push_mem (v : Byte) : (s.push v).mem = s.mem.write s.stackTop.toNat v := rfl
@[simp] theorem push_flag (v : Byte) (f : Flag) : (s.push v).flag f = s.flag f := rfl
@[simp] theorem push_read (v : Byte) (w : Word) : (s.push v).read w = (s.write s.stackTop v).read w := rfl

@[simp] theorem pulled_a : s.pulled.a = s.a := rfl
@[simp] theorem pulled_x : s.pulled.x = s.x := rfl
@[simp] theorem pulled_y : s.pulled.y = s.y := rfl
@[simp] theorem pulled_pc : s.pulled.pc = s.pc := rfl
@[simp] theorem pulled_p : s.pulled.p = s.p := rfl
@[simp] theorem pulled_mem : s.pulled.mem = s.mem := rfl
@[simp] theorem pulled_sp : s.pulled.sp = s.sp + 1 := rfl
@[simp] theorem pulled_read (w : Word) : s.pulled.read w = s.read w := rfl
@[simp] theorem pulled_flag (f : Flag) : s.pulled.flag f = s.flag f := rfl

end Sys2Proof.Machine.State
end

