-- ==== Sys2Proof/Laws/Flags.lean ====
section
/-! SUPPORT. The laws of the flags: a flag written reads back, the other seven are kept, and what each flag computation
does to each flag. -/

namespace Sys2Proof.Machine

theorem Flag.bit_lt (f : Flag) : f.bit < 8 := by cases f <;> decide

theorem Flag.bit_inj {f g : Flag} (h : f.bit = g.bit) : f = g := by
  cases f <;> cases g <;> first | rfl | (exact absurd h (by decide))

theorem getFlag_setFlag (p : Byte) (f g : Flag) (on : Bool) :
    getFlag (setFlag p f on) g = if g = f then on else getFlag p g := by
  have hg := g.bit_lt
  by_cases h : g = f
  · subst h
    cases on <;> simp [getFlag, setFlag, hg]
  · have hne : g.bit ≠ f.bit := fun e => h (Flag.bit_inj e)
    cases on
    · simp [getFlag, setFlag, h, hg]
      omega
    · simp [getFlag, setFlag, h, hg]
      omega

@[simp] theorem getFlag_setFlag_same (p : Byte) (f : Flag) (on : Bool) : getFlag (setFlag p f on) f = on := by
  simp [getFlag_setFlag]

theorem getFlag_setFlag_ne (p : Byte) {f g : Flag} (on : Bool) (h : g ≠ f) :
    getFlag (setFlag p f on) g = getFlag p g := by simp [getFlag_setFlag, h]

/-- Bit 7 as a number. -/
theorem bit_seven (v : Byte) : v.getLsbD 7 = decide (128 ≤ v.toNat) := by
  have msb : v.getLsbD 7 = v.msb := by simp [BitVec.msb, BitVec.getMsbD]
  rw [msb, BitVec.msb_eq_decide]

/-- A status byte is its eight flags. -/
theorem status_ext {p q : Byte} (h : ∀ f, getFlag p f = getFlag q f) : p = q := by
  apply BitVec.eq_of_getLsbD_eq
  intro k hk
  have : ∃ f : Flag, f.bit = k := by
    interval_cases k
    exacts [⟨.c, rfl⟩, ⟨.z, rfl⟩, ⟨.i, rfl⟩, ⟨.d, rfl⟩, ⟨.b, rfl⟩, ⟨.u, rfl⟩, ⟨.v, rfl⟩, ⟨.n, rfl⟩]
  obtain ⟨f, rfl⟩ := this
  exact h f

theorem getFlag_setZN (v p : Byte) (g : Flag) :
    getFlag (setZN v p) g = if g = .n then v.getLsbD 7 else if g = .z then decide (v = 0) else getFlag p g := by
  simp only [setZN, updateNegative, updateZero, getFlag_setFlag]
  rfl

theorem getFlag_compareFlags (r m p : Byte) (g : Flag) :
    getFlag (compareFlags r m p) g =
      if g = .n then (r - m).getLsbD 7 else if g = .z then decide (r = m)
      else if g = .c then decide (m.toNat ≤ r.toNat) else getFlag p g := by
  simp only [compareFlags, updateNegative, getFlag_setFlag]
  rfl

theorem getFlag_bitTestFlags (a m p : Byte) (g : Flag) :
    getFlag (bitTestFlags a m p) g =
      if g = .v then m.getLsbD 6 else if g = .n then m.getLsbD 7 else if g = .z then decide (a &&& m = 0) else getFlag p g := by
  simp only [bitTestFlags, getFlag_setFlag]
  rfl

theorem getFlag_aluFlags (r : AluResult) (p : Byte) (g : Flag) :
    getFlag (aluFlags r p) g =
      if g = .n then r.value.getLsbD 7 else if g = .z then decide (r.value = 0) else if g = .v then r.overflow
      else if g = .c then r.carry else getFlag p g := by
  simp only [aluFlags, getFlag_setZN, getFlag_setFlag]

theorem getFlag_shiftFlags (r : ShiftResult) (p : Byte) (g : Flag) :
    getFlag (shiftFlags r p) g =
      if g = .n then r.value.getLsbD 7 else if g = .z then decide (r.value = 0) else if g = .c then r.carry else getFlag p g := by
  simp only [shiftFlags, getFlag_setZN, getFlag_setFlag]

end Sys2Proof.Machine
end

