-- ==== Sys2Proof/Laws/Alu.lean ====
section
/-! SUPPORT. The arithmetic of ADC, SBC and the shifts in numbers (spec 43_arith_incdec.md R170, R171,
44_shift_rotate.md R190 to R194). -/

namespace Sys2Proof.Machine

/-- Masking with 0x80 asks for bit 7. -/
theorem and_80_ne_zero (v : Byte) : (v &&& 0x80#8 != 0#8) = v.getLsbD 7 := by
  have mask : v &&& 0x80#8 = if v.getLsbD 7 then 0x80#8 else 0#8 := by
    apply BitVec.eq_of_getLsbD_eq
    intro k hk
    by_cases h : v[7] = true <;> interval_cases k <;> simp [h]
  rw [mask]
  cases v.getLsbD 7 <;> rfl

theorem addWithCarry_value (a m : Byte) (c : Bool) :
    (addWithCarry a m c).value.toNat = (a.toNat + m.toNat + c.toNat) % 256 := by simp [addWithCarry]

theorem addWithCarry_carry (a m : Byte) (c : Bool) :
    (addWithCarry a m c).carry = true ↔ 255 < a.toNat + m.toNat + c.toNat := by simp [addWithCarry]

/-- V is set exactly when the operands have one sign bit and the result another (R170). -/
theorem addWithCarry_overflow (a m : Byte) (c : Bool) :
    (addWithCarry a m c).overflow =
      (a.getLsbD 7 == m.getLsbD 7 && (addWithCarry a m c).value.getLsbD 7 != a.getLsbD 7) := by
  have key : ∀ r : Byte, (((a ^^^ r) &&& (m ^^^ r) &&& 0x80#8) != 0#8) =
      (a.getLsbD 7 == m.getLsbD 7 && r.getLsbD 7 != a.getLsbD 7) := by
    intro r
    rw [and_80_ne_zero]
    simp only [BitVec.getLsbD_and, BitVec.getLsbD_xor]
    cases a.getLsbD 7 <;> cases m.getLsbD 7 <;> cases r.getLsbD 7 <;> rfl
  exact key _

theorem complement_toNat (m : Byte) : (m ^^^ 0xFF).toNat = 255 - m.toNat := by
  have : m ^^^ 0xFF = ~~~m := by
    apply BitVec.eq_of_getLsbD_eq
    intro k hk
    interval_cases k <;> simp
  rw [this, BitVec.toNat_not]

theorem complement_bit_seven (m : Byte) : (m ^^^ 0xFF).getLsbD 7 = !m.getLsbD 7 := by simp

theorem subtractWithBorrow_value (a m : Byte) (c : Bool) :
    ((subtractWithBorrow a m c).value.toNat : Int) = ((a.toNat : Int) - m.toNat - (1 - c.toNat)) % 256 := by
  have := m.isLt
  have := addWithCarry_value a (m ^^^ 0xFF) c
  rw [complement_toNat] at this
  rw [subtractWithBorrow, this]
  cases c <;> simp <;> omega

theorem subtractWithBorrow_carry (a m : Byte) (c : Bool) :
    (subtractWithBorrow a m c).carry = true ↔ m.toNat + (1 - c.toNat) ≤ a.toNat := by
  have := m.isLt
  rw [subtractWithBorrow, addWithCarry_carry, complement_toNat]
  cases c <;> simp <;> omega

theorem subtractWithBorrow_overflow (a m : Byte) (c : Bool) :
    (subtractWithBorrow a m c).overflow =
      (a.getLsbD 7 != m.getLsbD 7 && (subtractWithBorrow a m c).value.getLsbD 7 != a.getLsbD 7) := by
  rw [subtractWithBorrow, addWithCarry_overflow, complement_bit_seven]
  cases a.getLsbD 7 <;> cases m.getLsbD 7 <;> rfl

/-- A byte as a signed number. -/
theorem toInt_eq (v : Byte) : v.toInt = if v.getLsbD 7 then (v.toNat : Int) - 256 else v.toNat := by
  have := v.isLt
  rw [bit_seven, BitVec.toInt_eq_toNat_cond]
  by_cases h : 128 ≤ v.toNat
  · simp [h]
    omega
  · simp [h]
    omega

theorem shiftLeft_value (m : Byte) (low : Bool) :
    (shiftLeft m low).value.toNat = (2 * m.toNat + low.toNat) % 256 := by
  have double : (m <<< 1).toNat = (2 * m.toNat) % 256 := by
    simp [Nat.shiftLeft_eq]
    omega
  have disjoint : (m <<< 1) &&& 1#8 = 0#8 := by
    apply BitVec.eq_of_getLsbD_eq
    intro k hk
    interval_cases k <;> simp
  cases low
  · simpa [shiftLeft] using double
  · show (m <<< 1 ||| 1#8).toNat = _
    rw [← BitVec.add_eq_or_of_and_eq_zero _ _ disjoint, BitVec.toNat_add, double]
    simp only [BitVec.toNat_ofNat, Bool.toNat_true]
    omega

theorem shiftRight_value (m : Byte) (high : Bool) :
    (shiftRight m high).value.toNat = m.toNat / 2 + 128 * high.toNat := by
  have hm := m.isLt
  have half : (m >>> 1).toNat = m.toNat / 2 := by simp [Nat.shiftRight_eq_div_pow]
  have disjoint : (m >>> 1) &&& 0x80#8 = 0#8 := by
    apply BitVec.eq_of_getLsbD_eq
    intro k hk
    interval_cases k <;> simp
  cases high
  · simpa [shiftRight] using half
  · show (m >>> 1 ||| 0x80#8).toNat = _
    rw [← BitVec.add_eq_or_of_and_eq_zero _ _ disjoint, BitVec.toNat_add, half]
    simp only [BitVec.toNat_ofNat, Bool.toNat_true]
    omega

end Sys2Proof.Machine
end

