-- ==== Sys2Proof/Laws/Memory.lean ====
section
/-! SUPPORT. The laws of memory: read after write, and the canonical form is kept by every operation. -/

namespace Sys2Proof.Machine

theorem Memory.read_remove (m : Memory) (a b : Nat) :
    (m.remove a).read b = if b = a then unlistedByte else m.read b := by
  induction m with
  | nil => simp [Memory.remove, Memory.read]
  | cons c m ih =>
    obtain ⟨k, v⟩ := c
    simp only [Memory.remove, List.filter_cons] at ih ⊢
    by_cases hk : k = a
    · subst hk
      by_cases hb : b = k
      · simpa [hb] using ih
      · simp [ih, Memory.read, hb, Ne.symm hb]
    · by_cases hb : k = b
      · subst hb
        simp [hk, Memory.read]
      · simp [hk, Memory.read, hb, ih]

theorem Memory.read_insert (m : Memory) (a b : Nat) (v : Byte) (free : ∀ c ∈ m, c.1 ≠ a) :
    (m.insert a v).read b = if b = a then v else m.read b := by
  induction m with
  | nil =>
    by_cases hb : b = a
    · simp [Memory.insert, Memory.read, hb]
    · simp [Memory.insert, Memory.read, hb, Ne.symm hb]
  | cons c m ih =>
    obtain ⟨k, w⟩ := c
    have hk : k ≠ a := free (k, w) (by simp)
    have ih := ih fun c hc => free c (by simp [hc])
    simp only [Memory.insert]
    split
    · by_cases hb : b = a
      · simp [Memory.read, hb]
      · simp [Memory.read, hb, Ne.symm hb]
    · by_cases hb : k = b
      · subst hb
        simp [Memory.read, hk]
      · simp [Memory.read, hb, ih]

theorem Memory.remove_free (m : Memory) (a : Nat) : ∀ c ∈ m.remove a, c.1 ≠ a := by
  intro c hc
  simpa using (List.mem_filter.mp hc).2

/-- Read after write (spec 20_memory.md R51), of every list of cells, canonical or not. -/
theorem Memory.read_write (m : Memory) (a b : Nat) (v : Byte) :
    (m.write a v).read b = if b = a then v else m.read b := by
  unfold Memory.write
  split
  · next h => rw [Memory.read_remove, h]
  · rw [Memory.read_insert _ _ _ _ (Memory.remove_free m a), Memory.read_remove]
    by_cases hb : b = a <;> simp [hb]

theorem Memory.wf_cons {a : Nat} {v : Byte} {m : Memory} :
    Memory.wf ((a, v) :: m) = true ↔ a < 65536 ∧ v ≠ unlistedByte ∧ (∀ c ∈ m, a < c.1) ∧ m.wf = true := by
  simp [Memory.wf, and_assoc]

theorem Memory.wf_remove {m : Memory} (h : m.wf = true) (a : Nat) : (m.remove a).wf = true := by
  induction m with
  | nil => rfl
  | cons c m ih =>
    obtain ⟨k, v⟩ := c
    obtain ⟨hk, hv, hlt, hm⟩ := Memory.wf_cons.mp h
    by_cases hka : k = a
    · have : Memory.remove ((k, v) :: m) a = Memory.remove m a := by simp [Memory.remove, hka]
      rw [this]
      exact ih hm
    · have : Memory.remove ((k, v) :: m) a = (k, v) :: Memory.remove m a := by simp [Memory.remove, hka]
      rw [this]
      exact Memory.wf_cons.mpr ⟨hk, hv, fun c hc => hlt c (List.mem_filter.mp hc).1, ih hm⟩

theorem Memory.mem_insert {m : Memory} {a : Nat} {v : Byte} {c : Host.Cell} (h : c ∈ m.insert a v) :
    c = (a, v) ∨ c ∈ m := by
  induction m with
  | nil => simpa [Memory.insert] using h
  | cons d m ih =>
    simp only [Memory.insert] at h
    split at h
    · simpa using h
    · rcases List.mem_cons.mp h with h | h
      · exact .inr (by simp [h])
      · exact (ih h).imp id fun h => by simp [h]

theorem Memory.wf_insert {m : Memory} (h : m.wf = true) {a : Nat} {v : Byte} (ha : a < 65536) (hv : v ≠ unlistedByte)
    (free : ∀ c ∈ m, c.1 ≠ a) : (m.insert a v).wf = true := by
  induction m with
  | nil => simp [Memory.insert, Memory.wf, ha, hv]
  | cons d m ih =>
    obtain ⟨k, w⟩ := d
    obtain ⟨hk, hw, hlt, hm⟩ := Memory.wf_cons.mp h
    have hne : k ≠ a := free (k, w) (by simp)
    simp only [Memory.insert]
    split
    · next hak =>
      refine Memory.wf_cons.mpr ⟨ha, hv, fun c hc => ?_, h⟩
      rcases List.mem_cons.mp hc with rfl | hc
      · exact hak
      · exact lt_trans hak (hlt c hc)
    · next hak =>
      refine Memory.wf_cons.mpr ⟨hk, hw, fun c hc => ?_, ih hm fun c hc => free c (by simp [hc])⟩
      rcases Memory.mem_insert hc with rfl | hc
      · show k < a
        omega
      · exact hlt c hc

/-- Every memory operation keeps the canonical form. -/
theorem Memory.wf_write {m : Memory} (h : m.wf = true) {a : Nat} (ha : a < 65536) (v : Byte) : (m.write a v).wf = true := by
  unfold Memory.write
  split
  · exact Memory.wf_remove h a
  · next hv => exact Memory.wf_insert (Memory.wf_remove h a) ha hv (Memory.remove_free m a)

namespace State

/-- `MemWrite` and `MemRead` of the state (R51). -/
theorem read_write (s : State) (a b : Word) (v : Byte) : (s.write a v).read b = if b = a then v else s.read b := by
  simp only [read, write_mem, Memory.read_write, BitVec.toNat_inj]

@[simp] theorem read_write_same (s : State) (a : Word) (v : Byte) : (s.write a v).read a = v := by simp [read_write]

theorem read_write_ne (s : State) {a b : Word} (v : Byte) (h : b ≠ a) : (s.write a v).read b = s.read b := by
  simp [read_write, h]

theorem wf_write {s : State} (h : s.mem.wf = true) (a : Word) (v : Byte) : (s.write a v).mem.wf = true :=
  Memory.wf_write h a.isLt v

theorem wf_push {s : State} (h : s.mem.wf = true) (v : Byte) : (s.push v).mem.wf = true := wf_write h _ v

theorem wf_pushWord {s : State} (h : s.mem.wf = true) (w : Word) : (s.pushWord w).mem.wf = true := wf_push (wf_push h _) _

theorem reset_mem_wf : reset.mem.wf = true := rfl

end State

end Sys2Proof.Machine
end

