-- ==== Sys2Proof/Laws/Dispatch.lean ====
section
/-! SUPPORT. What dispatch comes to (spec 40_step_and_addressing.md R119): the mnemonic selects the operation, the
operand is its argument. Proofs go by the 56 mnemonics through `exec_eq_operation`, not by the 151 arms. -/

namespace Sys2Proof.Machine

/-- The operation each mnemonic selects. -/
def operation (n : Mnemonic) (m : Operand) (s : State) : Host.Outcome State Fault Refusal :=
  match n with
  | .lda => load .a m s
  | .ldx => load .x m s
  | .ldy => load .y m s
  | .sta => store .a m s
  | .stx => store .x m s
  | .sty => store .y m s
  | .tax => transfer .a .x s
  | .tay => transfer .a .y s
  | .txa => transfer .x .a s
  | .tya => transfer .y .a s
  | .tsx => transfer .sp .x s
  | .txs => transferToStack s
  | .and => logic (· &&& ·) m s
  | .ora => logic (· ||| ·) m s
  | .eor => logic (· ^^^ ·) m s
  | .bit => bitTest m s
  | .cmp => compareReg .a m s
  | .cpx => compareReg .x m s
  | .cpy => compareReg .y m s
  | .adc => arithmetic addWithCarry m s
  | .sbc => arithmetic subtractWithBorrow m s
  | .inc => adjustMemory 1 m s
  | .dec => adjustMemory (-1) m s
  | .inx => adjustReg .x 1 s
  | .iny => adjustReg .y 1 s
  | .dex => adjustReg .x (-1) s
  | .dey => adjustReg .y (-1) s
  | .asl => asl m s
  | .lsr => lsr m s
  | .rol => rol m s
  | .ror => ror m s
  | .pha => pushReg s
  | .php => pushStatus s
  | .pla => pullReg s
  | .plp => pullStatus s
  | .jmp => jump m s
  | .jsr => call m s
  | .rts => subroutineReturn s
  | .rti => .next s.interruptReturn
  | .bcc => branch .c false m s
  | .bcs => branch .c true m s
  | .beq => branch .z true m s
  | .bne => branch .z false m s
  | .bpl => branch .n false m s
  | .bmi => branch .n true m s
  | .bvc => branch .v false m s
  | .bvs => branch .v true m s
  | .brk => .next s.softwareInterrupt
  | .nop => .next (s.advance 1)
  | .clc => writeFlag .c false s
  | .cld => writeFlag .d false s
  | .cli => writeFlag .i false s
  | .clv => writeFlag .v false s
  | .sec => writeFlag .c true s
  | .sed => writeFlag .d true s
  | .sei => writeFlag .i true s

/-- R119: `exec` is the mnemonic's operation on the instruction's operand. -/
theorem exec_eq_operation (i : Instr) (s : State) : exec i s = operation i.mnemonic i.operand s := by
  cases i <;> rfl

/-- Every instruction has a pair of R94. -/
theorem wf_instr (i : Instr) : i.wf = true := by cases i <;> rfl

/-- The operand of an instruction has one of the modes of its mnemonic. -/
theorem mode_mem_modes (i : Instr) : i.operand.mode ∈ i.mnemonic.modes := by
  have h := wf_instr i
  rw [Instr.wf, descriptorWf, List.contains_iff_mem] at h
  exact h

/-- The operand of an instruction has no mode that its mnemonic lacks. -/
theorem mode_ne {i : Instr} {n : Mnemonic} (h : i.mnemonic = n) {k : Mode} (hk : k ∉ n.modes) : i.operand.mode ≠ k := by
  intro e
  rw [← e, ← h] at hk
  exact hk (mode_mem_modes i)

/-- Every operand but Implied has a byte. -/
theorem operandValue_some {m : Operand} (h : m.mode ≠ .imp) (s : State) : ∃ v, operandValue m s = some v := by
  cases m <;> first | exact ⟨_, rfl⟩ | exact absurd rfl h

/-- Every operand but Accumulator and Implied has an address. -/
theorem address_some {m : Operand} (ha : m.mode ≠ .acc) (hi : m.mode ≠ .imp) (s : State) :
    ∃ w, (resolve m s).address = some w := by
  cases m <;> first | exact ⟨_, rfl⟩ | exact absurd rfl ha | exact absurd rfl hi

/-- An operand that is neither Immediate nor Accumulator is read at its resolved address. -/
theorem operandValue_of_address {m : Operand} {s : State} {w : Word} (hi : m.mode ≠ .imm)
    (h : (resolve m s).address = some w) : operandValue m s = some (s.read w) := by
  cases m <;> simp_all [operandValue, resolve, Operand.mode]

/-- A memory operand is written at its resolved address. -/
theorem writeOperand_of_address {m : Operand} {s : State} {w : Word} (hi : m.mode ≠ .imm) (v : Byte)
    (h : (resolve m s).address = some w) : writeOperand m v s = some (s.write w v) := by
  cases m <;> simp_all [writeOperand, resolve, Operand.mode]

theorem withValue_eq {m : Operand} {s : State} {v : Byte} (h : operandValue m s = some v) (k : Byte → State) :
    withValue m s k = .next (k v) := by simp [withValue, h]

theorem withAddress_eq {m : Operand} {s : State} {w : Word} (h : (resolve m s).address = some w) (k : Word → State) :
    withAddress m s k = .next (k w) := by simp [withAddress, h]

/-- What `withValue` can do: nothing but run on the operand's byte. -/
theorem withValue_next {m : Operand} {s t : State} {k : Byte → State} (h : withValue m s k = .next t) :
    ∃ v, operandValue m s = some v ∧ t = k v := by
  unfold withValue at h
  split at h
  · next v hv => exact ⟨v, hv, by injection h with h; exact h.symm⟩
  · cases h

/-- What `withAddress` can do: nothing but run on the resolved address. -/
theorem withAddress_next {m : Operand} {s t : State} {k : Word → State} (h : withAddress m s k = .next t) :
    ∃ w, (resolve m s).address = some w ∧ t = k w := by
  unfold withAddress at h
  split at h
  · next w hw => exact ⟨w, hw, by injection h with h; exact h.symm⟩
  · cases h

/-- What `withOffset` can do: nothing but run on the offset. -/
theorem withOffset_next {m : Operand} {s t : State} {k : Word → State} (h : withOffset m s k = .next t) :
    ∃ off, (resolve m s).relativeAddress = some off ∧ t = k off := by
  unfold withOffset at h
  split at h
  · next off ho => exact ⟨off, ho, by injection h with h; exact h.symm⟩
  · cases h

/-- A relative operand gives its offset. -/
theorem withOffset_rel (o : Byte) (s : State) (k : Word → State) : withOffset (.rel o) s k = .next (k (relOffset o)) := rfl

/-- All `modifyOperand` does on a memory operand: one cell, P and PC. -/
theorem modifyOperand_memory {m : Operand} {s : State} {w : Word} (hi : m.mode ≠ .imm)
    (h : (resolve m s).address = some w) (f : Byte → Byte × Byte) :
    modifyOperand m s f =
      .next (((s.write w (f (s.read w)).1).setP (f (s.read w)).2).advance (operandLength m)) := by
  simp [modifyOperand, operandValue_of_address hi h, writeOperand_of_address hi _ h]

/-- All `modifyOperand` does in Accumulator mode: A, P and PC. -/
theorem modifyOperand_acc (s : State) (f : Byte → Byte × Byte) :
    modifyOperand .acc s f = .next (((s.setA (f s.a).1).setP (f s.a).2).advance 1) := rfl

/-- What `modifyOperand` can do: write A in Accumulator mode, else one cell, and P and PC in both. -/
theorem modifyOperand_next {m : Operand} {s t : State} {f : Byte → Byte × Byte} (h : modifyOperand m s f = .next t) :
    (m = .acc ∧ t = ((s.setA (f s.a).1).setP (f s.a).2).advance 1) ∨
    (m.mode ≠ .acc ∧ ∃ w, (resolve m s).address = some w ∧
      t = ((s.write w (f (s.read w)).1).setP (f (s.read w)).2).advance (operandLength m)) := by
  by_cases hacc : m.mode = .acc
  · have hm : m = .acc := by cases m <;> first | rfl | cases hacc
    subst hm
    rw [modifyOperand_acc] at h
    injection h with h
    exact .inl ⟨rfl, h.symm⟩
  · refine .inr ⟨hacc, ?_⟩
    by_cases himp : m.mode = .imp
    · have hm : m = .imp := by cases m <;> first | rfl | cases himp
      subst hm
      cases h
    · by_cases himm : m.mode = .imm
      · obtain ⟨v, hm⟩ : ∃ v, m = .imm v := by cases m <;> first | exact ⟨_, rfl⟩ | cases himm
        subst hm
        cases h
      · obtain ⟨w, hw⟩ := address_some hacc himp s
        rw [modifyOperand_memory himm hw] at h
        injection h with h
        exact ⟨w, hw, h.symm⟩

end Sys2Proof.Machine
end

