-- ==== Sys2Proof/Laws/Ops.lean ====
section
/-! SUPPORT. The stack and the shared operations: each lemma says once everything its operation does. -/

namespace Sys2Proof.Machine

theorem zext16_toNat (b : Byte) : (zext16 b).toNat = b.toNat := by
  have := b.isLt
  simp only [zext16, BitVec.toNat_setWidth]
  omega

theorem word_toNat (l h : Byte) : (word l h).toNat = l.toNat + 256 * h.toNat := by
  have := l.isLt
  have := h.isLt
  simp [word]
  omega

theorem lo_toNat (w : Word) : (lo w).toNat = w.toNat % 256 := by simp [lo]

theorem hi_toNat (w : Word) : (hi w).toNat = w.toNat / 256 := by
  have := w.isLt
  simp [hi, Nat.shiftRight_eq_div_pow]
  omega

/-- A word is its two bytes. -/
@[simp] theorem word_lo_hi (w : Word) : word (lo w) (hi w) = w := by
  apply BitVec.eq_of_toNat_eq
  rw [word_toNat, lo_toNat, hi_toNat]
  omega

@[simp] theorem lo_word (l h : Byte) : lo (word l h) = l := by
  apply BitVec.eq_of_toNat_eq
  have := l.isLt
  rw [lo_toNat, word_toNat]
  omega

@[simp] theorem hi_word (l h : Byte) : hi (word l h) = h := by
  apply BitVec.eq_of_toNat_eq
  have := l.isLt
  rw [hi_toNat, word_toNat]
  omega

/-- The stack location of a value of SP (spec 10_state.md R25). -/
def stackAt (sp : Byte) : Word := Config.stackAddress + zext16 sp

theorem stackAt_toNat (sp : Byte) : (stackAt sp).toNat = 0x0100 + sp.toNat := by
  have := sp.isLt
  have base : Config.stackAddress.toNat = 0x0100 := rfl
  rw [stackAt, BitVec.toNat_add, zext16_toNat, base]
  omega

theorem stackAt_inj {a b : Byte} : stackAt a = stackAt b ↔ a = b := by
  constructor
  · intro h
    have := congrArg BitVec.toNat h
    rw [stackAt_toNat, stackAt_toNat] at this
    exact BitVec.eq_of_toNat_eq (by omega)
  · exact congrArg stackAt

namespace State

theorem stackTop_eq (s : State) : s.stackTop = stackAt s.sp := rfl

theorem pullByte_eq (s : State) : s.pullByte = s.read (stackAt (s.sp + 1)) := rfl

theorem pullWord_eq (s : State) :
    s.pullWord = word (s.read (stackAt (s.sp + 1))) (s.read (stackAt (s.sp + 1 + 1))) := rfl

/-- All `push` does. -/
theorem push_eq (s : State) (v : Byte) : s.push v = (s.write (stackAt s.sp) v).setSp (s.sp - 1) := rfl

/-- Memory after `pushWord` (R202). -/
theorem pushWord_read (s : State) (w a : Word) :
    (s.pushWord w).read a =
      if a = stackAt (s.sp - 1) then lo w else if a = stackAt s.sp then hi w else s.read a := by
  simp only [pushWord, push_eq, setSp_read, read_write, setSp_sp]

@[simp] theorem pushWord_sp (s : State) (w : Word) : (s.pushWord w).sp = s.sp - 1 - 1 := rfl
@[simp] theorem pushWord_a (s : State) (w : Word) : (s.pushWord w).a = s.a := rfl
@[simp] theorem pushWord_x (s : State) (w : Word) : (s.pushWord w).x = s.x := rfl
@[simp] theorem pushWord_y (s : State) (w : Word) : (s.pushWord w).y = s.y := rfl
@[simp] theorem pushWord_p (s : State) (w : Word) : (s.pushWord w).p = s.p := rfl
@[simp] theorem pushWord_flag (s : State) (w : Word) (f : Flag) : (s.pushWord w).flag f = s.flag f := rfl
@[simp] theorem pushWord_pc (s : State) (w : Word) : (s.pushWord w).pc = s.pc := rfl

/-- The byte BRK pushes: P with B and I set (R223). -/
def brkStatus (s : State) : Byte := setFlag (setFlag s.p .b true) .i true

@[simp] theorem softwareInterrupt_a (s : State) : s.softwareInterrupt.a = s.a := by simp [softwareInterrupt]
@[simp] theorem softwareInterrupt_x (s : State) : s.softwareInterrupt.x = s.x := by simp [softwareInterrupt]
@[simp] theorem softwareInterrupt_y (s : State) : s.softwareInterrupt.y = s.y := by simp [softwareInterrupt]
@[simp] theorem softwareInterrupt_sp (s : State) : s.softwareInterrupt.sp = s.sp - 1 - 1 - 1 := by
  simp [softwareInterrupt]
@[simp] theorem softwareInterrupt_p (s : State) : s.softwareInterrupt.p = setFlag s.brkStatus .b false := by
  simp [softwareInterrupt, brkStatus]

/-- Memory after the software interrupt: the three bytes of R253 and nothing else. -/
theorem softwareInterrupt_read (s : State) (a : Word) :
    s.softwareInterrupt.read a =
      if a = stackAt (s.sp - 1 - 1) then s.brkStatus else if a = stackAt (s.sp - 1) then lo (s.pc + 2)
      else if a = stackAt s.sp then hi (s.pc + 2) else s.read a := by
  simp only [softwareInterrupt, dump, setPc_read, putFlag_read, push_eq, setSp_read, read_write, putFlag_sp,
    pushWord_sp, pushWord_read, putFlag_p, pushWord_p, brkStatus]
  congr 1

theorem stackAt_ne_of_high {sp : Byte} {w : Word} (h : 0x01FF < w.toNat) : w ≠ stackAt sp := by
  intro e
  have := congrArg BitVec.toNat e
  rw [stackAt_toNat] at this
  have := sp.isLt
  omega

/-- PC after the software interrupt is the vector as it stood (R253): no push reaches it. -/
theorem softwareInterrupt_pc (s : State) : s.softwareInterrupt.pc = s.brkTarget := by
  have key : ∀ w : Word, 0x01FF < w.toNat → s.softwareInterrupt.read w = s.read w := by
    intro w hw
    simp only [softwareInterrupt_read, stackAt_ne_of_high hw, if_false]
  have low := key Config.brkVectorLow (by decide)
  have high := key Config.brkVectorHigh (by decide)
  show word (s.softwareInterrupt.read Config.brkVectorLow) (s.softwareInterrupt.read Config.brkVectorHigh) = _
  rw [low, high]
  rfl

theorem wf_softwareInterrupt {s : State} (h : s.mem.wf = true) : s.softwareInterrupt.mem.wf = true := by
  have pushed : ((s.putFlag .b true).pushWord (s.pc + 2)).mem.wf = true := wf_pushWord (by simpa using h) _
  simp only [softwareInterrupt, setPc_mem, putFlag_mem]
  exact wf_push (by simpa using pushed) _

@[simp] theorem interruptReturn_a (s : State) : s.interruptReturn.a = s.a := by
  simp [interruptReturn, pulledWord]
@[simp] theorem interruptReturn_x (s : State) : s.interruptReturn.x = s.x := by
  simp [interruptReturn, pulledWord]
@[simp] theorem interruptReturn_y (s : State) : s.interruptReturn.y = s.y := by
  simp [interruptReturn, pulledWord]
@[simp] theorem interruptReturn_mem (s : State) : s.interruptReturn.mem = s.mem := by
  simp [interruptReturn, pulledWord]
@[simp] theorem interruptReturn_sp (s : State) : s.interruptReturn.sp = s.sp + 1 + 1 + 1 := by
  simp [interruptReturn, pulledWord]
@[simp] theorem interruptReturn_p (s : State) : s.interruptReturn.p = s.read (stackAt (s.sp + 1)) := by
  simp [interruptReturn, pulledWord, pullByte_eq]
@[simp] theorem interruptReturn_pc (s : State) :
    s.interruptReturn.pc = word (s.read (stackAt (s.sp + 1 + 1))) (s.read (stackAt (s.sp + 1 + 1 + 1))) := by
  simp [interruptReturn, pullWord_eq]

end State

end Sys2Proof.Machine
end

