-- ==== Sys2Proof/Laws/Decode.lean ====
section
/-! SUPPORT. The laws of the opcode table (spec 30_encoding.md R83, R87, R91): no byte has two entries, a lookup finds
the entry of its byte, and the encoder agrees with every entry. -/

namespace Sys2Proof

open Machine

/-- No two entries share an opcode byte. -/
theorem opcodes_nodup : (opcodeTable.map Prod.fst).Nodup := by decide +kernel

theorem opcodeTable_length : opcodeTable.length = 151 := by decide +kernel

theorem find_of_mem {l : List (Byte × Form)} (nodup : (l.map Prod.fst).Nodup) {e : Byte × Form} (h : e ∈ l) :
    l.find? (fun d => d.1 == e.1) = some e := by
  induction l with
  | nil => cases h
  | cons d l ih =>
    rw [List.map_cons, List.nodup_cons] at nodup
    rcases List.mem_cons.mp h with rfl | h
    · simp
    · have : d.1 ≠ e.1 := fun eq => nodup.1 (eq ▸ List.mem_map_of_mem h)
      rw [List.find?_cons_of_neg (by simpa using this)]
      exact ih nodup.2 h

/-- A lookup finds the entry of its byte. -/
theorem lookup_of_mem {op : Byte} {f : Form} (h : (op, f) ∈ opcodeTable) : lookupOpcode op = some f := by
  rw [lookupOpcode, find_of_mem opcodes_nodup h]
  rfl

/-- What a lookup gives is an entry of the table. -/
theorem mem_of_lookup {op : Byte} {f : Form} (h : lookupOpcode op = some f) : (op, f) ∈ opcodeTable := by
  unfold lookupOpcode at h
  obtain ⟨e, he, rfl⟩ := Option.map_eq_some_iff.mp h
  have key := List.find?_some he
  have hmem := List.mem_of_find?_eq_some he
  simp only [beq_iff_eq] at key
  subst key
  exact hmem

theorem Form.size_le (f : Form) : f.size ≤ 2 := by
  cases f
  · exact Nat.zero_le 2
  · exact Nat.le_succ 1
  · exact Nat.le_refl 2

/-- Three bytes always hold the instruction of a defined opcode. -/
theorem decode_of_lookup {op : Byte} {f : Form} (h : lookupOpcode op = some f) (b0 b1 : Byte) (rest : List Byte) :
    decode (op :: b0 :: b1 :: rest) = .ok (f.assemble b0 b1, (b0 :: b1 :: rest).drop f.size) := by
  have hsize := f.size_le
  have : ¬ (b0 :: b1 :: rest).length < f.size := by
    simp only [List.length_cons]
    omega
  simp only [decode, h, if_neg this]
  rfl

/-- An undefined opcode is reported whatever follows it. -/
theorem decode_of_lookup_none {op : Byte} (h : lookupOpcode op = none) (rest : List Byte) :
    decode (op :: rest) = .error (.undefinedOpcode op) := by simp only [decode, h]

/-- What decoding can do: look the first byte up, find enough bytes after it and assemble the operand from them. -/
theorem decode_ok {bs rest : List Byte} {i : Instr} (h : decode bs = .ok (i, rest)) :
    ∃ op tail f, bs = op :: tail ∧ (op, f) ∈ opcodeTable ∧ f.size ≤ tail.length ∧
      i = f.assemble (tail.getD 0 0) (tail.getD 1 0) ∧ rest = tail.drop f.size := by
  cases bs with
  | nil => cases h
  | cons op tail =>
    rcases hf : lookupOpcode op with _ | f
    · rw [decode_of_lookup_none hf] at h
      cases h
    · simp only [decode, hf] at h
      split at h
      · cases h
      · next hlen =>
        injection h with h
        injection h with hi hrest
        exact ⟨op, tail, f, rfl, mem_of_lookup hf, Nat.le_of_not_lt hlen, hi.symm, hrest.symm⟩

/-- A three byte entry agrees with the encoder when its instruction does. -/
theorem encode_pair {op : Byte} {mk : Word → Instr} (h : ∀ w, encode (mk w) = [op, lo w, hi w]) (b0 b1 : Byte) :
    encode ((Form.pair mk).assemble b0 b1) = op :: [b0, b1].take (Form.pair mk).size := by
  rw [Form.assemble, h, lo_word, hi_word]
  rfl

theorem encode_assemble_row0 :
    ∀ e ∈ opcodesRow0, ∀ b0 b1, encode (e.2.assemble b0 b1) = e.1 :: [b0, b1].take e.2.size := by
  unfold opcodesRow0
  repeat' refine List.forall_mem_cons.mpr ⟨?_, ?_⟩
  all_goals first
    | exact fun _ _ => rfl
    | exact encode_pair fun _ => rfl
    | exact List.forall_mem_nil _

theorem encode_assemble_row1 :
    ∀ e ∈ opcodesRow1, ∀ b0 b1, encode (e.2.assemble b0 b1) = e.1 :: [b0, b1].take e.2.size := by
  unfold opcodesRow1
  repeat' refine List.forall_mem_cons.mpr ⟨?_, ?_⟩
  all_goals first
    | exact fun _ _ => rfl
    | exact encode_pair fun _ => rfl
    | exact List.forall_mem_nil _

theorem encode_assemble_row2 :
    ∀ e ∈ opcodesRow2, ∀ b0 b1, encode (e.2.assemble b0 b1) = e.1 :: [b0, b1].take e.2.size := by
  unfold opcodesRow2
  repeat' refine List.forall_mem_cons.mpr ⟨?_, ?_⟩
  all_goals first
    | exact fun _ _ => rfl
    | exact encode_pair fun _ => rfl
    | exact List.forall_mem_nil _

theorem encode_assemble_row3 :
    ∀ e ∈ opcodesRow3, ∀ b0 b1, encode (e.2.assemble b0 b1) = e.1 :: [b0, b1].take e.2.size := by
  unfold opcodesRow3
  repeat' refine List.forall_mem_cons.mpr ⟨?_, ?_⟩
  all_goals first
    | exact fun _ _ => rfl
    | exact encode_pair fun _ => rfl
    | exact List.forall_mem_nil _

theorem encode_assemble_row4 :
    ∀ e ∈ opcodesRow4, ∀ b0 b1, encode (e.2.assemble b0 b1) = e.1 :: [b0, b1].take e.2.size := by
  unfold opcodesRow4
  repeat' refine List.forall_mem_cons.mpr ⟨?_, ?_⟩
  all_goals first
    | exact fun _ _ => rfl
    | exact encode_pair fun _ => rfl
    | exact List.forall_mem_nil _

theorem encode_assemble_row5 :
    ∀ e ∈ opcodesRow5, ∀ b0 b1, encode (e.2.assemble b0 b1) = e.1 :: [b0, b1].take e.2.size := by
  unfold opcodesRow5
  repeat' refine List.forall_mem_cons.mpr ⟨?_, ?_⟩
  all_goals first
    | exact fun _ _ => rfl
    | exact encode_pair fun _ => rfl
    | exact List.forall_mem_nil _

theorem encode_assemble_row6 :
    ∀ e ∈ opcodesRow6, ∀ b0 b1, encode (e.2.assemble b0 b1) = e.1 :: [b0, b1].take e.2.size := by
  unfold opcodesRow6
  repeat' refine List.forall_mem_cons.mpr ⟨?_, ?_⟩
  all_goals first
    | exact fun _ _ => rfl
    | exact encode_pair fun _ => rfl
    | exact List.forall_mem_nil _

theorem encode_assemble_row7 :
    ∀ e ∈ opcodesRow7, ∀ b0 b1, encode (e.2.assemble b0 b1) = e.1 :: [b0, b1].take e.2.size := by
  unfold opcodesRow7
  repeat' refine List.forall_mem_cons.mpr ⟨?_, ?_⟩
  all_goals first
    | exact fun _ _ => rfl
    | exact encode_pair fun _ => rfl
    | exact List.forall_mem_nil _

theorem encode_assemble_row8 :
    ∀ e ∈ opcodesRow8, ∀ b0 b1, encode (e.2.assemble b0 b1) = e.1 :: [b0, b1].take e.2.size := by
  unfold opcodesRow8
  repeat' refine List.forall_mem_cons.mpr ⟨?_, ?_⟩
  all_goals first
    | exact fun _ _ => rfl
    | exact encode_pair fun _ => rfl
    | exact List.forall_mem_nil _

theorem encode_assemble_row9 :
    ∀ e ∈ opcodesRow9, ∀ b0 b1, encode (e.2.assemble b0 b1) = e.1 :: [b0, b1].take e.2.size := by
  unfold opcodesRow9
  repeat' refine List.forall_mem_cons.mpr ⟨?_, ?_⟩
  all_goals first
    | exact fun _ _ => rfl
    | exact encode_pair fun _ => rfl
    | exact List.forall_mem_nil _

theorem encode_assemble_rowA :
    ∀ e ∈ opcodesRowA, ∀ b0 b1, encode (e.2.assemble b0 b1) = e.1 :: [b0, b1].take e.2.size := by
  unfold opcodesRowA
  repeat' refine List.forall_mem_cons.mpr ⟨?_, ?_⟩
  all_goals first
    | exact fun _ _ => rfl
    | exact encode_pair fun _ => rfl
    | exact List.forall_mem_nil _

theorem encode_assemble_rowB :
    ∀ e ∈ opcodesRowB, ∀ b0 b1, encode (e.2.assemble b0 b1) = e.1 :: [b0, b1].take e.2.size := by
  unfold opcodesRowB
  repeat' refine List.forall_mem_cons.mpr ⟨?_, ?_⟩
  all_goals first
    | exact fun _ _ => rfl
    | exact encode_pair fun _ => rfl
    | exact List.forall_mem_nil _

theorem encode_assemble_rowC :
    ∀ e ∈ opcodesRowC, ∀ b0 b1, encode (e.2.assemble b0 b1) = e.1 :: [b0, b1].take e.2.size := by
  unfold opcodesRowC
  repeat' refine List.forall_mem_cons.mpr ⟨?_, ?_⟩
  all_goals first
    | exact fun _ _ => rfl
    | exact encode_pair fun _ => rfl
    | exact List.forall_mem_nil _

theorem encode_assemble_rowD :
    ∀ e ∈ opcodesRowD, ∀ b0 b1, encode (e.2.assemble b0 b1) = e.1 :: [b0, b1].take e.2.size := by
  unfold opcodesRowD
  repeat' refine List.forall_mem_cons.mpr ⟨?_, ?_⟩
  all_goals first
    | exact fun _ _ => rfl
    | exact encode_pair fun _ => rfl
    | exact List.forall_mem_nil _

theorem encode_assemble_rowE :
    ∀ e ∈ opcodesRowE, ∀ b0 b1, encode (e.2.assemble b0 b1) = e.1 :: [b0, b1].take e.2.size := by
  unfold opcodesRowE
  repeat' refine List.forall_mem_cons.mpr ⟨?_, ?_⟩
  all_goals first
    | exact fun _ _ => rfl
    | exact encode_pair fun _ => rfl
    | exact List.forall_mem_nil _

theorem encode_assemble_rowF :
    ∀ e ∈ opcodesRowF, ∀ b0 b1, encode (e.2.assemble b0 b1) = e.1 :: [b0, b1].take e.2.size := by
  unfold opcodesRowF
  repeat' refine List.forall_mem_cons.mpr ⟨?_, ?_⟩
  all_goals first
    | exact fun _ _ => rfl
    | exact encode_pair fun _ => rfl
    | exact List.forall_mem_nil _

/-- The encoder, written from R94, agrees with every entry of the table, written from R87. -/
theorem encode_assemble : ∀ e ∈ opcodeTable, ∀ b0 b1, encode (e.2.assemble b0 b1) = e.1 :: [b0, b1].take e.2.size := by
  simp only [opcodeTable, List.forall_mem_append]
  exact ⟨⟨⟨⟨⟨⟨⟨⟨⟨⟨⟨⟨⟨⟨⟨encode_assemble_row0, encode_assemble_row1⟩, encode_assemble_row2⟩, encode_assemble_row3⟩,
    encode_assemble_row4⟩, encode_assemble_row5⟩, encode_assemble_row6⟩, encode_assemble_row7⟩, encode_assemble_row8⟩,
    encode_assemble_row9⟩, encode_assemble_rowA⟩, encode_assemble_rowB⟩, encode_assemble_rowC⟩, encode_assemble_rowD⟩,
    encode_assemble_rowE⟩, encode_assemble_rowF⟩

/-- The operand of a mode from the bytes after the opcode (spec 40_step_and_addressing.md R103 to R115). -/
def operandOfMode (k : Mode) (b0 b1 : Byte) : Operand :=
  match k with
  | .imm => .imm b0
  | .zp => .zp b0
  | .zpx => .zpx b0
  | .zpy => .zpy b0
  | .indx => .indx b0
  | .indy => .indy b0
  | .rel => .rel b0
  | .abs => .abs (word b0 b1)
  | .absx => .absx (word b0 b1)
  | .absy => .absy (word b0 b1)
  | .ind => .ind (word b0 b1)
  | .acc => .acc
  | .imp => .imp

theorem mode_operandOfMode (k : Mode) (b0 b1 : Byte) : (operandOfMode k b0 b1).mode = k := by cases k <;> rfl

/-- An entry's mnemonic and mode, whatever the operand bytes. -/
def Form.mnemonicMode (f : Form) : Mnemonic × Mode := ((f.assemble 0 0).mnemonic, (f.assemble 0 0).mode)

theorem descriptor_assemble_row0 : ∀ e ∈ opcodesRow0, ∀ b0 b1,
    (e.2.assemble b0 b1).descriptor = (e.2.mnemonicMode.1, operandOfMode e.2.mnemonicMode.2 b0 b1) := by
  unfold opcodesRow0
  repeat' refine List.forall_mem_cons.mpr ⟨?_, ?_⟩
  all_goals first
    | exact fun _ _ => rfl
    | exact List.forall_mem_nil _

theorem descriptor_assemble_row1 : ∀ e ∈ opcodesRow1, ∀ b0 b1,
    (e.2.assemble b0 b1).descriptor = (e.2.mnemonicMode.1, operandOfMode e.2.mnemonicMode.2 b0 b1) := by
  unfold opcodesRow1
  repeat' refine List.forall_mem_cons.mpr ⟨?_, ?_⟩
  all_goals first
    | exact fun _ _ => rfl
    | exact List.forall_mem_nil _

theorem descriptor_assemble_row2 : ∀ e ∈ opcodesRow2, ∀ b0 b1,
    (e.2.assemble b0 b1).descriptor = (e.2.mnemonicMode.1, operandOfMode e.2.mnemonicMode.2 b0 b1) := by
  unfold opcodesRow2
  repeat' refine List.forall_mem_cons.mpr ⟨?_, ?_⟩
  all_goals first
    | exact fun _ _ => rfl
    | exact List.forall_mem_nil _

theorem descriptor_assemble_row3 : ∀ e ∈ opcodesRow3, ∀ b0 b1,
    (e.2.assemble b0 b1).descriptor = (e.2.mnemonicMode.1, operandOfMode e.2.mnemonicMode.2 b0 b1) := by
  unfold opcodesRow3
  repeat' refine List.forall_mem_cons.mpr ⟨?_, ?_⟩
  all_goals first
    | exact fun _ _ => rfl
    | exact List.forall_mem_nil _

theorem descriptor_assemble_row4 : ∀ e ∈ opcodesRow4, ∀ b0 b1,
    (e.2.assemble b0 b1).descriptor = (e.2.mnemonicMode.1, operandOfMode e.2.mnemonicMode.2 b0 b1) := by
  unfold opcodesRow4
  repeat' refine List.forall_mem_cons.mpr ⟨?_, ?_⟩
  all_goals first
    | exact fun _ _ => rfl
    | exact List.forall_mem_nil _

theorem descriptor_assemble_row5 : ∀ e ∈ opcodesRow5, ∀ b0 b1,
    (e.2.assemble b0 b1).descriptor = (e.2.mnemonicMode.1, operandOfMode e.2.mnemonicMode.2 b0 b1) := by
  unfold opcodesRow5
  repeat' refine List.forall_mem_cons.mpr ⟨?_, ?_⟩
  all_goals first
    | exact fun _ _ => rfl
    | exact List.forall_mem_nil _

theorem descriptor_assemble_row6 : ∀ e ∈ opcodesRow6, ∀ b0 b1,
    (e.2.assemble b0 b1).descriptor = (e.2.mnemonicMode.1, operandOfMode e.2.mnemonicMode.2 b0 b1) := by
  unfold opcodesRow6
  repeat' refine List.forall_mem_cons.mpr ⟨?_, ?_⟩
  all_goals first
    | exact fun _ _ => rfl
    | exact List.forall_mem_nil _

theorem descriptor_assemble_row7 : ∀ e ∈ opcodesRow7, ∀ b0 b1,
    (e.2.assemble b0 b1).descriptor = (e.2.mnemonicMode.1, operandOfMode e.2.mnemonicMode.2 b0 b1) := by
  unfold opcodesRow7
  repeat' refine List.forall_mem_cons.mpr ⟨?_, ?_⟩
  all_goals first
    | exact fun _ _ => rfl
    | exact List.forall_mem_nil _

theorem descriptor_assemble_row8 : ∀ e ∈ opcodesRow8, ∀ b0 b1,
    (e.2.assemble b0 b1).descriptor = (e.2.mnemonicMode.1, operandOfMode e.2.mnemonicMode.2 b0 b1) := by
  unfold opcodesRow8
  repeat' refine List.forall_mem_cons.mpr ⟨?_, ?_⟩
  all_goals first
    | exact fun _ _ => rfl
    | exact List.forall_mem_nil _

theorem descriptor_assemble_row9 : ∀ e ∈ opcodesRow9, ∀ b0 b1,
    (e.2.assemble b0 b1).descriptor = (e.2.mnemonicMode.1, operandOfMode e.2.mnemonicMode.2 b0 b1) := by
  unfold opcodesRow9
  repeat' refine List.forall_mem_cons.mpr ⟨?_, ?_⟩
  all_goals first
    | exact fun _ _ => rfl
    | exact List.forall_mem_nil _

theorem descriptor_assemble_rowA : ∀ e ∈ opcodesRowA, ∀ b0 b1,
    (e.2.assemble b0 b1).descriptor = (e.2.mnemonicMode.1, operandOfMode e.2.mnemonicMode.2 b0 b1) := by
  unfold opcodesRowA
  repeat' refine List.forall_mem_cons.mpr ⟨?_, ?_⟩
  all_goals first
    | exact fun _ _ => rfl
    | exact List.forall_mem_nil _

theorem descriptor_assemble_rowB : ∀ e ∈ opcodesRowB, ∀ b0 b1,
    (e.2.assemble b0 b1).descriptor = (e.2.mnemonicMode.1, operandOfMode e.2.mnemonicMode.2 b0 b1) := by
  unfold opcodesRowB
  repeat' refine List.forall_mem_cons.mpr ⟨?_, ?_⟩
  all_goals first
    | exact fun _ _ => rfl
    | exact List.forall_mem_nil _

theorem descriptor_assemble_rowC : ∀ e ∈ opcodesRowC, ∀ b0 b1,
    (e.2.assemble b0 b1).descriptor = (e.2.mnemonicMode.1, operandOfMode e.2.mnemonicMode.2 b0 b1) := by
  unfold opcodesRowC
  repeat' refine List.forall_mem_cons.mpr ⟨?_, ?_⟩
  all_goals first
    | exact fun _ _ => rfl
    | exact List.forall_mem_nil _

theorem descriptor_assemble_rowD : ∀ e ∈ opcodesRowD, ∀ b0 b1,
    (e.2.assemble b0 b1).descriptor = (e.2.mnemonicMode.1, operandOfMode e.2.mnemonicMode.2 b0 b1) := by
  unfold opcodesRowD
  repeat' refine List.forall_mem_cons.mpr ⟨?_, ?_⟩
  all_goals first
    | exact fun _ _ => rfl
    | exact List.forall_mem_nil _

theorem descriptor_assemble_rowE : ∀ e ∈ opcodesRowE, ∀ b0 b1,
    (e.2.assemble b0 b1).descriptor = (e.2.mnemonicMode.1, operandOfMode e.2.mnemonicMode.2 b0 b1) := by
  unfold opcodesRowE
  repeat' refine List.forall_mem_cons.mpr ⟨?_, ?_⟩
  all_goals first
    | exact fun _ _ => rfl
    | exact List.forall_mem_nil _

theorem descriptor_assemble_rowF : ∀ e ∈ opcodesRowF, ∀ b0 b1,
    (e.2.assemble b0 b1).descriptor = (e.2.mnemonicMode.1, operandOfMode e.2.mnemonicMode.2 b0 b1) := by
  unfold opcodesRowF
  repeat' refine List.forall_mem_cons.mpr ⟨?_, ?_⟩
  all_goals first
    | exact fun _ _ => rfl
    | exact List.forall_mem_nil _

/-- The opcode byte alone fixes mnemonic and mode (R83, R90); the operand bytes fill the mode's operand. -/
theorem descriptor_assemble : ∀ e ∈ opcodeTable, ∀ b0 b1,
    (e.2.assemble b0 b1).descriptor = (e.2.mnemonicMode.1, operandOfMode e.2.mnemonicMode.2 b0 b1) := by
  simp only [opcodeTable, List.forall_mem_append]
  exact ⟨⟨⟨⟨⟨⟨⟨⟨⟨⟨⟨⟨⟨⟨⟨descriptor_assemble_row0, descriptor_assemble_row1⟩, descriptor_assemble_row2⟩,
    descriptor_assemble_row3⟩, descriptor_assemble_row4⟩, descriptor_assemble_row5⟩, descriptor_assemble_row6⟩,
    descriptor_assemble_row7⟩, descriptor_assemble_row8⟩, descriptor_assemble_row9⟩, descriptor_assemble_rowA⟩,
    descriptor_assemble_rowB⟩, descriptor_assemble_rowC⟩, descriptor_assemble_rowD⟩, descriptor_assemble_rowE⟩,
    descriptor_assemble_rowF⟩

/-- The bytes an entry takes are those of its mode (R82). -/
theorem operandLength_size {op : Byte} {f : Form} (h : (op, f) ∈ opcodeTable) (b0 b1 : Byte) :
    operandLength (operandOfMode f.mnemonicMode.2 b0 b1) = f.size + 1 := by
  have table : ∀ e ∈ opcodeTable, operandLength (operandOfMode e.2.mnemonicMode.2 0 0) = e.2.size + 1 := by
    decide +kernel
  have same : ∀ k : Mode, operandLength (operandOfMode k b0 b1) = operandLength (operandOfMode k 0 0) := by
    intro k
    cases k <;> simp only [operandOfMode, operandLength]
  rw [same]
  exact table _ h

end Sys2Proof
end

