-- ==== Sys2Proof/Laws/PerInstr.lean ====
section
/-! SUPPORT. Two families of statements about every instruction as syntax. EncodedForm: its encoding is its opcode
byte followed by the bytes of its operand (spec 30_encoding.md R81). TableEntry: the table of R87 has an entry under
its opcode byte (R91) that assembles it again from those bytes (R85). -/

namespace Sys2Proof.Laws

open Sys2Proof.Machine

/-- The bytes of an operand after the opcode byte. -/
def operandBytes : Operand → List Byte
  | .imm v | .zp v | .zpx v | .zpy v | .indx v | .indy v | .rel v => [v]
  | .abs w | .absx w | .absy w | .ind w => [lo w, hi w]
  | .acc | .imp => []

namespace EncodedForm

/-- The encoding is the opcode byte and the operand's bytes. -/
def Statement (i : Instr) : Prop := encode i = opcodeOf i :: operandBytes i.operand

/-- The length of an encoding is the `L` of its mode (R82). -/
theorem length_eq {i : Instr} (h : Statement i) : (encode i).length = operandLength i.operand := by
  rw [h]
  cases i.operand <;> rfl

theorem ldaImm (v : Byte) : Statement (.ldaImm v) := rfl
theorem ldaZp (a : Byte) : Statement (.ldaZp a) := rfl
theorem ldaZpx (a : Byte) : Statement (.ldaZpx a) := rfl
theorem ldaAbs (w : Word) : Statement (.ldaAbs w) := rfl
theorem ldaAbsx (w : Word) : Statement (.ldaAbsx w) := rfl
theorem ldaAbsy (w : Word) : Statement (.ldaAbsy w) := rfl
theorem ldaIndx (a : Byte) : Statement (.ldaIndx a) := rfl
theorem ldaIndy (a : Byte) : Statement (.ldaIndy a) := rfl
theorem ldxImm (v : Byte) : Statement (.ldxImm v) := rfl
theorem ldxZp (a : Byte) : Statement (.ldxZp a) := rfl
theorem ldxZpy (a : Byte) : Statement (.ldxZpy a) := rfl
theorem ldxAbs (w : Word) : Statement (.ldxAbs w) := rfl
theorem ldxAbsy (w : Word) : Statement (.ldxAbsy w) := rfl
theorem ldyImm (v : Byte) : Statement (.ldyImm v) := rfl
theorem ldyZp (a : Byte) : Statement (.ldyZp a) := rfl
theorem ldyZpx (a : Byte) : Statement (.ldyZpx a) := rfl
theorem ldyAbs (w : Word) : Statement (.ldyAbs w) := rfl
theorem ldyAbsx (w : Word) : Statement (.ldyAbsx w) := rfl
theorem staZp (a : Byte) : Statement (.staZp a) := rfl
theorem staZpx (a : Byte) : Statement (.staZpx a) := rfl
theorem staAbs (w : Word) : Statement (.staAbs w) := rfl
theorem staAbsx (w : Word) : Statement (.staAbsx w) := rfl
theorem staAbsy (w : Word) : Statement (.staAbsy w) := rfl
theorem staIndx (a : Byte) : Statement (.staIndx a) := rfl
theorem staIndy (a : Byte) : Statement (.staIndy a) := rfl
theorem stxZp (a : Byte) : Statement (.stxZp a) := rfl
theorem stxZpy (a : Byte) : Statement (.stxZpy a) := rfl
theorem stxAbs (w : Word) : Statement (.stxAbs w) := rfl
theorem styZp (a : Byte) : Statement (.styZp a) := rfl
theorem styZpx (a : Byte) : Statement (.styZpx a) := rfl
theorem styAbs (w : Word) : Statement (.styAbs w) := rfl
theorem tax : Statement .tax := rfl
theorem tay : Statement .tay := rfl
theorem txa : Statement .txa := rfl
theorem tya : Statement .tya := rfl
theorem tsx : Statement .tsx := rfl
theorem txs : Statement .txs := rfl
theorem andImm (v : Byte) : Statement (.andImm v) := rfl
theorem andZp (a : Byte) : Statement (.andZp a) := rfl
theorem andZpx (a : Byte) : Statement (.andZpx a) := rfl
theorem andAbs (w : Word) : Statement (.andAbs w) := rfl
theorem andAbsx (w : Word) : Statement (.andAbsx w) := rfl
theorem andAbsy (w : Word) : Statement (.andAbsy w) := rfl
theorem andIndx (a : Byte) : Statement (.andIndx a) := rfl
theorem andIndy (a : Byte) : Statement (.andIndy a) := rfl
theorem oraImm (v : Byte) : Statement (.oraImm v) := rfl
theorem oraZp (a : Byte) : Statement (.oraZp a) := rfl
theorem oraZpx (a : Byte) : Statement (.oraZpx a) := rfl
theorem oraAbs (w : Word) : Statement (.oraAbs w) := rfl
theorem oraAbsx (w : Word) : Statement (.oraAbsx w) := rfl
theorem oraAbsy (w : Word) : Statement (.oraAbsy w) := rfl
theorem oraIndx (a : Byte) : Statement (.oraIndx a) := rfl
theorem oraIndy (a : Byte) : Statement (.oraIndy a) := rfl
theorem eorImm (v : Byte) : Statement (.eorImm v) := rfl
theorem eorZp (a : Byte) : Statement (.eorZp a) := rfl
theorem eorZpx (a : Byte) : Statement (.eorZpx a) := rfl
theorem eorAbs (w : Word) : Statement (.eorAbs w) := rfl
theorem eorAbsx (w : Word) : Statement (.eorAbsx w) := rfl
theorem eorAbsy (w : Word) : Statement (.eorAbsy w) := rfl
theorem eorIndx (a : Byte) : Statement (.eorIndx a) := rfl
theorem eorIndy (a : Byte) : Statement (.eorIndy a) := rfl
theorem bitZp (a : Byte) : Statement (.bitZp a) := rfl
theorem bitAbs (w : Word) : Statement (.bitAbs w) := rfl
theorem cmpImm (v : Byte) : Statement (.cmpImm v) := rfl
theorem cmpZp (a : Byte) : Statement (.cmpZp a) := rfl
theorem cmpZpx (a : Byte) : Statement (.cmpZpx a) := rfl
theorem cmpAbs (w : Word) : Statement (.cmpAbs w) := rfl
theorem cmpAbsx (w : Word) : Statement (.cmpAbsx w) := rfl
theorem cmpAbsy (w : Word) : Statement (.cmpAbsy w) := rfl
theorem cmpIndx (a : Byte) : Statement (.cmpIndx a) := rfl
theorem cmpIndy (a : Byte) : Statement (.cmpIndy a) := rfl
theorem cpxImm (v : Byte) : Statement (.cpxImm v) := rfl
theorem cpxZp (a : Byte) : Statement (.cpxZp a) := rfl
theorem cpxAbs (w : Word) : Statement (.cpxAbs w) := rfl
theorem cpyImm (v : Byte) : Statement (.cpyImm v) := rfl
theorem cpyZp (a : Byte) : Statement (.cpyZp a) := rfl
theorem cpyAbs (w : Word) : Statement (.cpyAbs w) := rfl
theorem adcImm (v : Byte) : Statement (.adcImm v) := rfl
theorem adcZp (a : Byte) : Statement (.adcZp a) := rfl
theorem adcZpx (a : Byte) : Statement (.adcZpx a) := rfl
theorem adcAbs (w : Word) : Statement (.adcAbs w) := rfl
theorem adcAbsx (w : Word) : Statement (.adcAbsx w) := rfl
theorem adcAbsy (w : Word) : Statement (.adcAbsy w) := rfl
theorem adcIndx (a : Byte) : Statement (.adcIndx a) := rfl
theorem adcIndy (a : Byte) : Statement (.adcIndy a) := rfl
theorem sbcImm (v : Byte) : Statement (.sbcImm v) := rfl
theorem sbcZp (a : Byte) : Statement (.sbcZp a) := rfl
theorem sbcZpx (a : Byte) : Statement (.sbcZpx a) := rfl
theorem sbcAbs (w : Word) : Statement (.sbcAbs w) := rfl
theorem sbcAbsx (w : Word) : Statement (.sbcAbsx w) := rfl
theorem sbcAbsy (w : Word) : Statement (.sbcAbsy w) := rfl
theorem sbcIndx (a : Byte) : Statement (.sbcIndx a) := rfl
theorem sbcIndy (a : Byte) : Statement (.sbcIndy a) := rfl
theorem incZp (a : Byte) : Statement (.incZp a) := rfl
theorem incZpx (a : Byte) : Statement (.incZpx a) := rfl
theorem incAbs (w : Word) : Statement (.incAbs w) := rfl
theorem incAbsx (w : Word) : Statement (.incAbsx w) := rfl
theorem decZp (a : Byte) : Statement (.decZp a) := rfl
theorem decZpx (a : Byte) : Statement (.decZpx a) := rfl
theorem decAbs (w : Word) : Statement (.decAbs w) := rfl
theorem decAbsx (w : Word) : Statement (.decAbsx w) := rfl
theorem inx : Statement .inx := rfl
theorem iny : Statement .iny := rfl
theorem dex : Statement .dex := rfl
theorem dey : Statement .dey := rfl
theorem aslZp (a : Byte) : Statement (.aslZp a) := rfl
theorem aslZpx (a : Byte) : Statement (.aslZpx a) := rfl
theorem aslAbs (w : Word) : Statement (.aslAbs w) := rfl
theorem aslAbsx (w : Word) : Statement (.aslAbsx w) := rfl
theorem aslAcc : Statement .aslAcc := rfl
theorem lsrZp (a : Byte) : Statement (.lsrZp a) := rfl
theorem lsrZpx (a : Byte) : Statement (.lsrZpx a) := rfl
theorem lsrAbs (w : Word) : Statement (.lsrAbs w) := rfl
theorem lsrAbsx (w : Word) : Statement (.lsrAbsx w) := rfl
theorem lsrAcc : Statement .lsrAcc := rfl
theorem rolZp (a : Byte) : Statement (.rolZp a) := rfl
theorem rolZpx (a : Byte) : Statement (.rolZpx a) := rfl
theorem rolAbs (w : Word) : Statement (.rolAbs w) := rfl
theorem rolAbsx (w : Word) : Statement (.rolAbsx w) := rfl
theorem rolAcc : Statement .rolAcc := rfl
theorem rorZp (a : Byte) : Statement (.rorZp a) := rfl
theorem rorZpx (a : Byte) : Statement (.rorZpx a) := rfl
theorem rorAbs (w : Word) : Statement (.rorAbs w) := rfl
theorem rorAbsx (w : Word) : Statement (.rorAbsx w) := rfl
theorem rorAcc : Statement .rorAcc := rfl
theorem pha : Statement .pha := rfl
theorem php : Statement .php := rfl
theorem pla : Statement .pla := rfl
theorem plp : Statement .plp := rfl
theorem jmpAbs (w : Word) : Statement (.jmpAbs w) := rfl
theorem jmpInd (w : Word) : Statement (.jmpInd w) := rfl
theorem jsr (w : Word) : Statement (.jsr w) := rfl
theorem rts : Statement .rts := rfl
theorem rti : Statement .rti := rfl
theorem bcc (o : Byte) : Statement (.bcc o) := rfl
theorem bcs (o : Byte) : Statement (.bcs o) := rfl
theorem beq (o : Byte) : Statement (.beq o) := rfl
theorem bne (o : Byte) : Statement (.bne o) := rfl
theorem bpl (o : Byte) : Statement (.bpl o) := rfl
theorem bmi (o : Byte) : Statement (.bmi o) := rfl
theorem bvc (o : Byte) : Statement (.bvc o) := rfl
theorem bvs (o : Byte) : Statement (.bvs o) := rfl
theorem brk : Statement .brk := rfl
theorem nop : Statement .nop := rfl
theorem clc : Statement .clc := rfl
theorem cld : Statement .cld := rfl
theorem cli : Statement .cli := rfl
theorem clv : Statement .clv := rfl
theorem sec : Statement .sec := rfl
theorem sed : Statement .sed := rfl
theorem sei : Statement .sei := rfl

end EncodedForm

namespace TableEntry

/-- The table has an entry for the instruction that takes exactly its operand bytes and gives the instruction from
them. -/
def Statement (i : Instr) : Prop :=
  ∃ f, (opcodeOf i, f) ∈ opcodeTable ∧ f.size = (operandBytes i.operand).length ∧
    ∀ rest, f.assemble ((operandBytes i.operand ++ rest).getD 0 0) ((operandBytes i.operand ++ rest).getD 1 0) = i

/-- An entry of the table by its place. -/
theorem entry {k : Nat} {op : Byte} {f : Form} (h : opcodeTable[k]? = some (op, f)) : (op, f) ∈ opcodeTable :=
  List.mem_of_getElem? h

theorem ldaImm (v : Byte) : Statement (.ldaImm v) := ⟨.byte .ldaImm, entry (k := 97) rfl, rfl, fun _ => rfl⟩
theorem ldaZp (a : Byte) : Statement (.ldaZp a) := ⟨.byte .ldaZp, entry (k := 94) rfl, rfl, fun _ => rfl⟩
theorem ldaZpx (a : Byte) : Statement (.ldaZpx a) := ⟨.byte .ldaZpx, entry (k := 105) rfl, rfl, fun _ => rfl⟩
theorem ldaAbs (w : Word) : Statement (.ldaAbs w) :=
  ⟨.pair .ldaAbs, entry (k := 100) rfl, rfl, fun _ => congrArg Instr.ldaAbs (word_lo_hi w)⟩
theorem ldaAbsx (w : Word) : Statement (.ldaAbsx w) :=
  ⟨.pair .ldaAbsx, entry (k := 111) rfl, rfl, fun _ => congrArg Instr.ldaAbsx (word_lo_hi w)⟩
theorem ldaAbsy (w : Word) : Statement (.ldaAbsy w) :=
  ⟨.pair .ldaAbsy, entry (k := 108) rfl, rfl, fun _ => congrArg Instr.ldaAbsy (word_lo_hi w)⟩
theorem ldaIndx (a : Byte) : Statement (.ldaIndx a) := ⟨.byte .ldaIndx, entry (k := 91) rfl, rfl, fun _ => rfl⟩
theorem ldaIndy (a : Byte) : Statement (.ldaIndy a) := ⟨.byte .ldaIndy, entry (k := 103) rfl, rfl, fun _ => rfl⟩
theorem ldxImm (v : Byte) : Statement (.ldxImm v) := ⟨.byte .ldxImm, entry (k := 92) rfl, rfl, fun _ => rfl⟩
theorem ldxZp (a : Byte) : Statement (.ldxZp a) := ⟨.byte .ldxZp, entry (k := 95) rfl, rfl, fun _ => rfl⟩
theorem ldxZpy (a : Byte) : Statement (.ldxZpy a) := ⟨.byte .ldxZpy, entry (k := 106) rfl, rfl, fun _ => rfl⟩
theorem ldxAbs (w : Word) : Statement (.ldxAbs w) :=
  ⟨.pair .ldxAbs, entry (k := 101) rfl, rfl, fun _ => congrArg Instr.ldxAbs (word_lo_hi w)⟩
theorem ldxAbsy (w : Word) : Statement (.ldxAbsy w) :=
  ⟨.pair .ldxAbsy, entry (k := 112) rfl, rfl, fun _ => congrArg Instr.ldxAbsy (word_lo_hi w)⟩
theorem ldyImm (v : Byte) : Statement (.ldyImm v) := ⟨.byte .ldyImm, entry (k := 90) rfl, rfl, fun _ => rfl⟩
theorem ldyZp (a : Byte) : Statement (.ldyZp a) := ⟨.byte .ldyZp, entry (k := 93) rfl, rfl, fun _ => rfl⟩
theorem ldyZpx (a : Byte) : Statement (.ldyZpx a) := ⟨.byte .ldyZpx, entry (k := 104) rfl, rfl, fun _ => rfl⟩
theorem ldyAbs (w : Word) : Statement (.ldyAbs w) :=
  ⟨.pair .ldyAbs, entry (k := 99) rfl, rfl, fun _ => congrArg Instr.ldyAbs (word_lo_hi w)⟩
theorem ldyAbsx (w : Word) : Statement (.ldyAbsx w) :=
  ⟨.pair .ldyAbsx, entry (k := 110) rfl, rfl, fun _ => congrArg Instr.ldyAbsx (word_lo_hi w)⟩
theorem staZp (a : Byte) : Statement (.staZp a) := ⟨.byte .staZp, entry (k := 74) rfl, rfl, fun _ => rfl⟩
theorem staZpx (a : Byte) : Statement (.staZpx a) := ⟨.byte .staZpx, entry (k := 84) rfl, rfl, fun _ => rfl⟩
theorem staAbs (w : Word) : Statement (.staAbs w) :=
  ⟨.pair .staAbs, entry (k := 79) rfl, rfl, fun _ => congrArg Instr.staAbs (word_lo_hi w)⟩
theorem staAbsx (w : Word) : Statement (.staAbsx w) :=
  ⟨.pair .staAbsx, entry (k := 89) rfl, rfl, fun _ => congrArg Instr.staAbsx (word_lo_hi w)⟩
theorem staAbsy (w : Word) : Statement (.staAbsy w) :=
  ⟨.pair .staAbsy, entry (k := 87) rfl, rfl, fun _ => congrArg Instr.staAbsy (word_lo_hi w)⟩
theorem staIndx (a : Byte) : Statement (.staIndx a) := ⟨.byte .staIndx, entry (k := 72) rfl, rfl, fun _ => rfl⟩
theorem staIndy (a : Byte) : Statement (.staIndy a) := ⟨.byte .staIndy, entry (k := 82) rfl, rfl, fun _ => rfl⟩
theorem stxZp (a : Byte) : Statement (.stxZp a) := ⟨.byte .stxZp, entry (k := 75) rfl, rfl, fun _ => rfl⟩
theorem stxZpy (a : Byte) : Statement (.stxZpy a) := ⟨.byte .stxZpy, entry (k := 85) rfl, rfl, fun _ => rfl⟩
theorem stxAbs (w : Word) : Statement (.stxAbs w) :=
  ⟨.pair .stxAbs, entry (k := 80) rfl, rfl, fun _ => congrArg Instr.stxAbs (word_lo_hi w)⟩
theorem styZp (a : Byte) : Statement (.styZp a) := ⟨.byte .styZp, entry (k := 73) rfl, rfl, fun _ => rfl⟩
theorem styZpx (a : Byte) : Statement (.styZpx a) := ⟨.byte .styZpx, entry (k := 83) rfl, rfl, fun _ => rfl⟩
theorem styAbs (w : Word) : Statement (.styAbs w) :=
  ⟨.pair .styAbs, entry (k := 78) rfl, rfl, fun _ => congrArg Instr.styAbs (word_lo_hi w)⟩
theorem tax : Statement .tax := ⟨.bare .tax, entry (k := 98) rfl, rfl, fun _ => rfl⟩
theorem tay : Statement .tay := ⟨.bare .tay, entry (k := 96) rfl, rfl, fun _ => rfl⟩
theorem txa : Statement .txa := ⟨.bare .txa, entry (k := 77) rfl, rfl, fun _ => rfl⟩
theorem tya : Statement .tya := ⟨.bare .tya, entry (k := 86) rfl, rfl, fun _ => rfl⟩
theorem tsx : Statement .tsx := ⟨.bare .tsx, entry (k := 109) rfl, rfl, fun _ => rfl⟩
theorem txs : Statement .txs := ⟨.bare .txs, entry (k := 88) rfl, rfl, fun _ => rfl⟩
theorem andImm (v : Byte) : Statement (.andImm v) := ⟨.byte .andImm, entry (k := 23) rfl, rfl, fun _ => rfl⟩
theorem andZp (a : Byte) : Statement (.andZp a) := ⟨.byte .andZp, entry (k := 20) rfl, rfl, fun _ => rfl⟩
theorem andZpx (a : Byte) : Statement (.andZpx a) := ⟨.byte .andZpx, entry (k := 30) rfl, rfl, fun _ => rfl⟩
theorem andAbs (w : Word) : Statement (.andAbs w) :=
  ⟨.pair .andAbs, entry (k := 26) rfl, rfl, fun _ => congrArg Instr.andAbs (word_lo_hi w)⟩
theorem andAbsx (w : Word) : Statement (.andAbsx w) :=
  ⟨.pair .andAbsx, entry (k := 34) rfl, rfl, fun _ => congrArg Instr.andAbsx (word_lo_hi w)⟩
theorem andAbsy (w : Word) : Statement (.andAbsy w) :=
  ⟨.pair .andAbsy, entry (k := 33) rfl, rfl, fun _ => congrArg Instr.andAbsy (word_lo_hi w)⟩
theorem andIndx (a : Byte) : Statement (.andIndx a) := ⟨.byte .andIndx, entry (k := 18) rfl, rfl, fun _ => rfl⟩
theorem andIndy (a : Byte) : Statement (.andIndy a) := ⟨.byte .andIndy, entry (k := 29) rfl, rfl, fun _ => rfl⟩
theorem oraImm (v : Byte) : Statement (.oraImm v) := ⟨.byte .oraImm, entry (k := 5) rfl, rfl, fun _ => rfl⟩
theorem oraZp (a : Byte) : Statement (.oraZp a) := ⟨.byte .oraZp, entry (k := 2) rfl, rfl, fun _ => rfl⟩
theorem oraZpx (a : Byte) : Statement (.oraZpx a) := ⟨.byte .oraZpx, entry (k := 11) rfl, rfl, fun _ => rfl⟩
theorem oraAbs (w : Word) : Statement (.oraAbs w) :=
  ⟨.pair .oraAbs, entry (k := 7) rfl, rfl, fun _ => congrArg Instr.oraAbs (word_lo_hi w)⟩
theorem oraAbsx (w : Word) : Statement (.oraAbsx w) :=
  ⟨.pair .oraAbsx, entry (k := 15) rfl, rfl, fun _ => congrArg Instr.oraAbsx (word_lo_hi w)⟩
theorem oraAbsy (w : Word) : Statement (.oraAbsy w) :=
  ⟨.pair .oraAbsy, entry (k := 14) rfl, rfl, fun _ => congrArg Instr.oraAbsy (word_lo_hi w)⟩
theorem oraIndx (a : Byte) : Statement (.oraIndx a) := ⟨.byte .oraIndx, entry (k := 1) rfl, rfl, fun _ => rfl⟩
theorem oraIndy (a : Byte) : Statement (.oraIndy a) := ⟨.byte .oraIndy, entry (k := 10) rfl, rfl, fun _ => rfl⟩
theorem eorImm (v : Byte) : Statement (.eorImm v) := ⟨.byte .eorImm, entry (k := 41) rfl, rfl, fun _ => rfl⟩
theorem eorZp (a : Byte) : Statement (.eorZp a) := ⟨.byte .eorZp, entry (k := 38) rfl, rfl, fun _ => rfl⟩
theorem eorZpx (a : Byte) : Statement (.eorZpx a) := ⟨.byte .eorZpx, entry (k := 48) rfl, rfl, fun _ => rfl⟩
theorem eorAbs (w : Word) : Statement (.eorAbs w) :=
  ⟨.pair .eorAbs, entry (k := 44) rfl, rfl, fun _ => congrArg Instr.eorAbs (word_lo_hi w)⟩
theorem eorAbsx (w : Word) : Statement (.eorAbsx w) :=
  ⟨.pair .eorAbsx, entry (k := 52) rfl, rfl, fun _ => congrArg Instr.eorAbsx (word_lo_hi w)⟩
theorem eorAbsy (w : Word) : Statement (.eorAbsy w) :=
  ⟨.pair .eorAbsy, entry (k := 51) rfl, rfl, fun _ => congrArg Instr.eorAbsy (word_lo_hi w)⟩
theorem eorIndx (a : Byte) : Statement (.eorIndx a) := ⟨.byte .eorIndx, entry (k := 37) rfl, rfl, fun _ => rfl⟩
theorem eorIndy (a : Byte) : Statement (.eorIndy a) := ⟨.byte .eorIndy, entry (k := 47) rfl, rfl, fun _ => rfl⟩
theorem bitZp (a : Byte) : Statement (.bitZp a) := ⟨.byte .bitZp, entry (k := 19) rfl, rfl, fun _ => rfl⟩
theorem bitAbs (w : Word) : Statement (.bitAbs w) :=
  ⟨.pair .bitAbs, entry (k := 25) rfl, rfl, fun _ => congrArg Instr.bitAbs (word_lo_hi w)⟩
theorem cmpImm (v : Byte) : Statement (.cmpImm v) := ⟨.byte .cmpImm, entry (k := 119) rfl, rfl, fun _ => rfl⟩
theorem cmpZp (a : Byte) : Statement (.cmpZp a) := ⟨.byte .cmpZp, entry (k := 116) rfl, rfl, fun _ => rfl⟩
theorem cmpZpx (a : Byte) : Statement (.cmpZpx a) := ⟨.byte .cmpZpx, entry (k := 126) rfl, rfl, fun _ => rfl⟩
theorem cmpAbs (w : Word) : Statement (.cmpAbs w) :=
  ⟨.pair .cmpAbs, entry (k := 122) rfl, rfl, fun _ => congrArg Instr.cmpAbs (word_lo_hi w)⟩
theorem cmpAbsx (w : Word) : Statement (.cmpAbsx w) :=
  ⟨.pair .cmpAbsx, entry (k := 130) rfl, rfl, fun _ => congrArg Instr.cmpAbsx (word_lo_hi w)⟩
theorem cmpAbsy (w : Word) : Statement (.cmpAbsy w) :=
  ⟨.pair .cmpAbsy, entry (k := 129) rfl, rfl, fun _ => congrArg Instr.cmpAbsy (word_lo_hi w)⟩
theorem cmpIndx (a : Byte) : Statement (.cmpIndx a) := ⟨.byte .cmpIndx, entry (k := 114) rfl, rfl, fun _ => rfl⟩
theorem cmpIndy (a : Byte) : Statement (.cmpIndy a) := ⟨.byte .cmpIndy, entry (k := 125) rfl, rfl, fun _ => rfl⟩
theorem cpxImm (v : Byte) : Statement (.cpxImm v) := ⟨.byte .cpxImm, entry (k := 132) rfl, rfl, fun _ => rfl⟩
theorem cpxZp (a : Byte) : Statement (.cpxZp a) := ⟨.byte .cpxZp, entry (k := 134) rfl, rfl, fun _ => rfl⟩
theorem cpxAbs (w : Word) : Statement (.cpxAbs w) :=
  ⟨.pair .cpxAbs, entry (k := 140) rfl, rfl, fun _ => congrArg Instr.cpxAbs (word_lo_hi w)⟩
theorem cpyImm (v : Byte) : Statement (.cpyImm v) := ⟨.byte .cpyImm, entry (k := 113) rfl, rfl, fun _ => rfl⟩
theorem cpyZp (a : Byte) : Statement (.cpyZp a) := ⟨.byte .cpyZp, entry (k := 115) rfl, rfl, fun _ => rfl⟩
theorem cpyAbs (w : Word) : Statement (.cpyAbs w) :=
  ⟨.pair .cpyAbs, entry (k := 121) rfl, rfl, fun _ => congrArg Instr.cpyAbs (word_lo_hi w)⟩
theorem adcImm (v : Byte) : Statement (.adcImm v) := ⟨.byte .adcImm, entry (k := 59) rfl, rfl, fun _ => rfl⟩
theorem adcZp (a : Byte) : Statement (.adcZp a) := ⟨.byte .adcZp, entry (k := 56) rfl, rfl, fun _ => rfl⟩
theorem adcZpx (a : Byte) : Statement (.adcZpx a) := ⟨.byte .adcZpx, entry (k := 66) rfl, rfl, fun _ => rfl⟩
theorem adcAbs (w : Word) : Statement (.adcAbs w) :=
  ⟨.pair .adcAbs, entry (k := 62) rfl, rfl, fun _ => congrArg Instr.adcAbs (word_lo_hi w)⟩
theorem adcAbsx (w : Word) : Statement (.adcAbsx w) :=
  ⟨.pair .adcAbsx, entry (k := 70) rfl, rfl, fun _ => congrArg Instr.adcAbsx (word_lo_hi w)⟩
theorem adcAbsy (w : Word) : Statement (.adcAbsy w) :=
  ⟨.pair .adcAbsy, entry (k := 69) rfl, rfl, fun _ => congrArg Instr.adcAbsy (word_lo_hi w)⟩
theorem adcIndx (a : Byte) : Statement (.adcIndx a) := ⟨.byte .adcIndx, entry (k := 55) rfl, rfl, fun _ => rfl⟩
theorem adcIndy (a : Byte) : Statement (.adcIndy a) := ⟨.byte .adcIndy, entry (k := 65) rfl, rfl, fun _ => rfl⟩
theorem sbcImm (v : Byte) : Statement (.sbcImm v) := ⟨.byte .sbcImm, entry (k := 138) rfl, rfl, fun _ => rfl⟩
theorem sbcZp (a : Byte) : Statement (.sbcZp a) := ⟨.byte .sbcZp, entry (k := 135) rfl, rfl, fun _ => rfl⟩
theorem sbcZpx (a : Byte) : Statement (.sbcZpx a) := ⟨.byte .sbcZpx, entry (k := 145) rfl, rfl, fun _ => rfl⟩
theorem sbcAbs (w : Word) : Statement (.sbcAbs w) :=
  ⟨.pair .sbcAbs, entry (k := 141) rfl, rfl, fun _ => congrArg Instr.sbcAbs (word_lo_hi w)⟩
theorem sbcAbsx (w : Word) : Statement (.sbcAbsx w) :=
  ⟨.pair .sbcAbsx, entry (k := 149) rfl, rfl, fun _ => congrArg Instr.sbcAbsx (word_lo_hi w)⟩
theorem sbcAbsy (w : Word) : Statement (.sbcAbsy w) :=
  ⟨.pair .sbcAbsy, entry (k := 148) rfl, rfl, fun _ => congrArg Instr.sbcAbsy (word_lo_hi w)⟩
theorem sbcIndx (a : Byte) : Statement (.sbcIndx a) := ⟨.byte .sbcIndx, entry (k := 133) rfl, rfl, fun _ => rfl⟩
theorem sbcIndy (a : Byte) : Statement (.sbcIndy a) := ⟨.byte .sbcIndy, entry (k := 144) rfl, rfl, fun _ => rfl⟩
theorem incZp (a : Byte) : Statement (.incZp a) := ⟨.byte .incZp, entry (k := 136) rfl, rfl, fun _ => rfl⟩
theorem incZpx (a : Byte) : Statement (.incZpx a) := ⟨.byte .incZpx, entry (k := 146) rfl, rfl, fun _ => rfl⟩
theorem incAbs (w : Word) : Statement (.incAbs w) :=
  ⟨.pair .incAbs, entry (k := 142) rfl, rfl, fun _ => congrArg Instr.incAbs (word_lo_hi w)⟩
theorem incAbsx (w : Word) : Statement (.incAbsx w) :=
  ⟨.pair .incAbsx, entry (k := 150) rfl, rfl, fun _ => congrArg Instr.incAbsx (word_lo_hi w)⟩
theorem decZp (a : Byte) : Statement (.decZp a) := ⟨.byte .decZp, entry (k := 117) rfl, rfl, fun _ => rfl⟩
theorem decZpx (a : Byte) : Statement (.decZpx a) := ⟨.byte .decZpx, entry (k := 127) rfl, rfl, fun _ => rfl⟩
theorem decAbs (w : Word) : Statement (.decAbs w) :=
  ⟨.pair .decAbs, entry (k := 123) rfl, rfl, fun _ => congrArg Instr.decAbs (word_lo_hi w)⟩
theorem decAbsx (w : Word) : Statement (.decAbsx w) :=
  ⟨.pair .decAbsx, entry (k := 131) rfl, rfl, fun _ => congrArg Instr.decAbsx (word_lo_hi w)⟩
theorem inx : Statement .inx := ⟨.bare .inx, entry (k := 137) rfl, rfl, fun _ => rfl⟩
theorem iny : Statement .iny := ⟨.bare .iny, entry (k := 118) rfl, rfl, fun _ => rfl⟩
theorem dex : Statement .dex := ⟨.bare .dex, entry (k := 120) rfl, rfl, fun _ => rfl⟩
theorem dey : Statement .dey := ⟨.bare .dey, entry (k := 76) rfl, rfl, fun _ => rfl⟩
theorem aslZp (a : Byte) : Statement (.aslZp a) := ⟨.byte .aslZp, entry (k := 3) rfl, rfl, fun _ => rfl⟩
theorem aslZpx (a : Byte) : Statement (.aslZpx a) := ⟨.byte .aslZpx, entry (k := 12) rfl, rfl, fun _ => rfl⟩
theorem aslAbs (w : Word) : Statement (.aslAbs w) :=
  ⟨.pair .aslAbs, entry (k := 8) rfl, rfl, fun _ => congrArg Instr.aslAbs (word_lo_hi w)⟩
theorem aslAbsx (w : Word) : Statement (.aslAbsx w) :=
  ⟨.pair .aslAbsx, entry (k := 16) rfl, rfl, fun _ => congrArg Instr.aslAbsx (word_lo_hi w)⟩
theorem aslAcc : Statement .aslAcc := ⟨.bare .aslAcc, entry (k := 6) rfl, rfl, fun _ => rfl⟩
theorem lsrZp (a : Byte) : Statement (.lsrZp a) := ⟨.byte .lsrZp, entry (k := 39) rfl, rfl, fun _ => rfl⟩
theorem lsrZpx (a : Byte) : Statement (.lsrZpx a) := ⟨.byte .lsrZpx, entry (k := 49) rfl, rfl, fun _ => rfl⟩
theorem lsrAbs (w : Word) : Statement (.lsrAbs w) :=
  ⟨.pair .lsrAbs, entry (k := 45) rfl, rfl, fun _ => congrArg Instr.lsrAbs (word_lo_hi w)⟩
theorem lsrAbsx (w : Word) : Statement (.lsrAbsx w) :=
  ⟨.pair .lsrAbsx, entry (k := 53) rfl, rfl, fun _ => congrArg Instr.lsrAbsx (word_lo_hi w)⟩
theorem lsrAcc : Statement .lsrAcc := ⟨.bare .lsrAcc, entry (k := 42) rfl, rfl, fun _ => rfl⟩
theorem rolZp (a : Byte) : Statement (.rolZp a) := ⟨.byte .rolZp, entry (k := 21) rfl, rfl, fun _ => rfl⟩
theorem rolZpx (a : Byte) : Statement (.rolZpx a) := ⟨.byte .rolZpx, entry (k := 31) rfl, rfl, fun _ => rfl⟩
theorem rolAbs (w : Word) : Statement (.rolAbs w) :=
  ⟨.pair .rolAbs, entry (k := 27) rfl, rfl, fun _ => congrArg Instr.rolAbs (word_lo_hi w)⟩
theorem rolAbsx (w : Word) : Statement (.rolAbsx w) :=
  ⟨.pair .rolAbsx, entry (k := 35) rfl, rfl, fun _ => congrArg Instr.rolAbsx (word_lo_hi w)⟩
theorem rolAcc : Statement .rolAcc := ⟨.bare .rolAcc, entry (k := 24) rfl, rfl, fun _ => rfl⟩
theorem rorZp (a : Byte) : Statement (.rorZp a) := ⟨.byte .rorZp, entry (k := 57) rfl, rfl, fun _ => rfl⟩
theorem rorZpx (a : Byte) : Statement (.rorZpx a) := ⟨.byte .rorZpx, entry (k := 67) rfl, rfl, fun _ => rfl⟩
theorem rorAbs (w : Word) : Statement (.rorAbs w) :=
  ⟨.pair .rorAbs, entry (k := 63) rfl, rfl, fun _ => congrArg Instr.rorAbs (word_lo_hi w)⟩
theorem rorAbsx (w : Word) : Statement (.rorAbsx w) :=
  ⟨.pair .rorAbsx, entry (k := 71) rfl, rfl, fun _ => congrArg Instr.rorAbsx (word_lo_hi w)⟩
theorem rorAcc : Statement .rorAcc := ⟨.bare .rorAcc, entry (k := 60) rfl, rfl, fun _ => rfl⟩
theorem pha : Statement .pha := ⟨.bare .pha, entry (k := 40) rfl, rfl, fun _ => rfl⟩
theorem php : Statement .php := ⟨.bare .php, entry (k := 4) rfl, rfl, fun _ => rfl⟩
theorem pla : Statement .pla := ⟨.bare .pla, entry (k := 58) rfl, rfl, fun _ => rfl⟩
theorem plp : Statement .plp := ⟨.bare .plp, entry (k := 22) rfl, rfl, fun _ => rfl⟩
theorem jmpAbs (w : Word) : Statement (.jmpAbs w) :=
  ⟨.pair .jmpAbs, entry (k := 43) rfl, rfl, fun _ => congrArg Instr.jmpAbs (word_lo_hi w)⟩
theorem jmpInd (w : Word) : Statement (.jmpInd w) :=
  ⟨.pair .jmpInd, entry (k := 61) rfl, rfl, fun _ => congrArg Instr.jmpInd (word_lo_hi w)⟩
theorem jsr (w : Word) : Statement (.jsr w) :=
  ⟨.pair .jsr, entry (k := 17) rfl, rfl, fun _ => congrArg Instr.jsr (word_lo_hi w)⟩
theorem rts : Statement .rts := ⟨.bare .rts, entry (k := 54) rfl, rfl, fun _ => rfl⟩
theorem rti : Statement .rti := ⟨.bare .rti, entry (k := 36) rfl, rfl, fun _ => rfl⟩
theorem bcc (o : Byte) : Statement (.bcc o) := ⟨.byte .bcc, entry (k := 81) rfl, rfl, fun _ => rfl⟩
theorem bcs (o : Byte) : Statement (.bcs o) := ⟨.byte .bcs, entry (k := 102) rfl, rfl, fun _ => rfl⟩
theorem beq (o : Byte) : Statement (.beq o) := ⟨.byte .beq, entry (k := 143) rfl, rfl, fun _ => rfl⟩
theorem bne (o : Byte) : Statement (.bne o) := ⟨.byte .bne, entry (k := 124) rfl, rfl, fun _ => rfl⟩
theorem bpl (o : Byte) : Statement (.bpl o) := ⟨.byte .bpl, entry (k := 9) rfl, rfl, fun _ => rfl⟩
theorem bmi (o : Byte) : Statement (.bmi o) := ⟨.byte .bmi, entry (k := 28) rfl, rfl, fun _ => rfl⟩
theorem bvc (o : Byte) : Statement (.bvc o) := ⟨.byte .bvc, entry (k := 46) rfl, rfl, fun _ => rfl⟩
theorem bvs (o : Byte) : Statement (.bvs o) := ⟨.byte .bvs, entry (k := 64) rfl, rfl, fun _ => rfl⟩
theorem brk : Statement .brk := ⟨.bare .brk, entry (k := 0) rfl, rfl, fun _ => rfl⟩
theorem nop : Statement .nop := ⟨.bare .nop, entry (k := 139) rfl, rfl, fun _ => rfl⟩
theorem clc : Statement .clc := ⟨.bare .clc, entry (k := 13) rfl, rfl, fun _ => rfl⟩
theorem cld : Statement .cld := ⟨.bare .cld, entry (k := 128) rfl, rfl, fun _ => rfl⟩
theorem cli : Statement .cli := ⟨.bare .cli, entry (k := 50) rfl, rfl, fun _ => rfl⟩
theorem clv : Statement .clv := ⟨.bare .clv, entry (k := 107) rfl, rfl, fun _ => rfl⟩
theorem sec : Statement .sec := ⟨.bare .sec, entry (k := 32) rfl, rfl, fun _ => rfl⟩
theorem sed : Statement .sed := ⟨.bare .sed, entry (k := 147) rfl, rfl, fun _ => rfl⟩
theorem sei : Statement .sei := ⟨.bare .sei, entry (k := 68) rfl, rfl, fun _ => rfl⟩

end TableEntry

end Sys2Proof.Laws
end

