-- ==== Sys2Proof/Laws/Step.lean ====
section
/-! SUPPORT. What one step comes to: the step of a decoded instruction, of an undefined opcode, and where the operand
of a decoded instruction comes from (spec 40_step_and_addressing.md R100, R103 to R115). -/

namespace Sys2Proof.Machine

/-- The step of bytes that decode is the instruction's `exec`. -/
theorem step_of_decode {s : State} {i : Instr} {rest : List Byte} (h : decode s.fetchBytes = .ok (i, rest)) :
    step s = exec i s := by rw [step, h]

/-- The step of an opcode byte with an entry. -/
theorem step_of_lookup {s : State} {f : Form} (h : lookupOpcode (s.read s.pc) = some f) :
    step s = exec (f.assemble (s.read (s.pc + 1)) (s.read (s.pc + 2))) s := step_of_decode (decode_of_lookup h _ _ [])

/-- The step of an opcode byte without an entry. -/
theorem step_of_lookup_none {s : State} (h : lookupOpcode (s.read s.pc) = none) :
    step s = .fault (.undefinedOpcode (s.read s.pc) s.pc) := by rw [step, State.fetchBytes, decode_of_lookup_none h]

/-- The instruction fetched at PC is assembled by the entry of the opcode byte. -/
theorem assemble_of_fetch {s : State} {i : Instr} {rest : List Byte} (h : decode s.fetchBytes = .ok (i, rest)) :
    ∃ f, (s.read s.pc, f) ∈ opcodeTable ∧ i = f.assemble (s.read (s.pc + 1)) (s.read (s.pc + 2)) := by
  obtain ⟨op, tail, f, hbytes, hf, -, hi, -⟩ := decode_ok h
  injection hbytes with hop htail
  subst hop htail
  exact ⟨f, hf, hi⟩

/-- The operand of the instruction fetched at PC is its mode's operand from the two bytes after it. -/
theorem operand_of_fetch {s : State} {i : Instr} {rest : List Byte} (h : decode s.fetchBytes = .ok (i, rest)) :
    i.operand = operandOfMode i.mode (s.read (s.pc + 1)) (s.read (s.pc + 2)) := by
  obtain ⟨f, hf, rfl⟩ := assemble_of_fetch h
  have d := congrArg Prod.snd (descriptor_assemble _ hf (s.read (s.pc + 1)) (s.read (s.pc + 2)))
  rw [Instr.mode, Instr.operand, d, mode_operandOfMode]

/-- The bytes the next step fetches, after an instruction at `p` that advances PC by `len`. -/
theorem fetchBytes_getElem? {t : State} {p : Word} {len j : Nat} (h : t.pc = p + BitVec.ofNat 16 len) (hj : j < 3) :
    t.fetchBytes[j]? = some (t.read (p + BitVec.ofNat 16 (len + j))) := by
  rw [State.fetchBytes, h]
  interval_cases j <;> simp [BitVec.ofNat_add, BitVec.add_assoc]

/-- The resolver reads no flag. -/
@[simp] theorem resolve_setP (m : Operand) (s : State) (p : Byte) : resolve m (s.setP p) = resolve m s := by
  cases m <;> rfl

/-- Neither does the access to an operand. -/
@[simp] theorem operandValue_setP (m : Operand) (s : State) (p : Byte) :
    operandValue m (s.setP p) = operandValue m s := by cases m <;> rfl

/-- The offset of a branch byte is `b0 - 128` in 16 bits (R86). -/
theorem relOffset_eq (b : Byte) : relOffset b = BitVec.ofInt 16 ((b.toNat : Int) - 128) := by
  revert b
  decide +kernel

end Sys2Proof.Machine
end

