-- ==== Sys2Proof/Tests/Slice0.lean ====
section
/-! SUPPORT. The tests of the model. Expected values are those of the spec: 95_test_vectors.md (the vector's id stands
over the test), the words of 30_encoding.md R94, and the tables of the rules named. -/

namespace Sys2Proof.Tests

open Sys2Proof.Machine

/-- The start state of every vector (95_test_vectors.md, Conventions). -/
def start : State := { a := 0x00, x := 0x00, y := 0x00, pc := 0x0500, sp := 0xFF, p := 0x00, mem := [] }

/-- A state with cells written and an instruction's bytes placed at its PC. -/
def setUp (s : State) (cells : List (Word × Byte)) (code : List Byte) : State :=
  (cells.foldl (fun s c => s.write c.1 c.2) s).load s.pc code

/-- What one step leaves, seen through a view of the state. -/
def after {α : Type} (s : State) (cells : List (Word × Byte)) (code : List Byte) (view : State → α) : Option α :=
  match step (setUp s cells code) with
  | .next t => some (view t)
  | _ => none

/-- The bytes are exactly one instruction. -/
def decodeOne (bs : List Byte) : Option Instr :=
  match decode bs with
  | .ok (i, []) => some i
  | _ => none

/-- Each word decodes to its instruction. -/
def decodesAll (l : List (List Byte × Instr)) : Bool := l.all fun c => decodeOne c.1 == some c.2

/-! Well-formedness: a pair of R94, and for each kind of illegal pair a term the check refuses. -/

theorem test_wf_accepts_listed_pairs :
    descriptorWf (.lda, .imm 0x10) = true ∧ descriptorWf (.stx, .zpy 0xFF) = true ∧ descriptorWf (.jmp, .ind 0x02FF) = true ∧
      descriptorWf (.lsr, .acc) = true ∧ descriptorWf (.beq, .rel 0x88) = true ∧ descriptorWf (.brk, .imp) = true := by
  decide

theorem test_wf_refuses_store_immediate : descriptorWf (.sta, .imm 0x10) = false := by decide
theorem test_wf_refuses_wrong_index : descriptorWf (.stx, .zpx 0x10) = false := by decide
theorem test_wf_refuses_load_accumulator : descriptorWf (.lda, .acc) = false := by decide
theorem test_wf_refuses_call_indirect : descriptorWf (.jsr, .ind 0x1234) = false := by decide
theorem test_wf_refuses_jump_indexed : descriptorWf (.jmp, .absx 0x1234) = false := by decide
theorem test_wf_refuses_branch_absolute : descriptorWf (.bne, .abs 0x1234) = false := by decide
theorem test_wf_refuses_implied_with_operand : descriptorWf (.tax, .zp 0x10) = false := by decide
theorem test_wf_refuses_missing_operand : descriptorWf (.cmp, .imp) = false := by decide

/-! Decoding: every row of the opcode table, its word written out from R94. -/

theorem test_decode_loads_stores_transfers_1 : decodesAll
    [([0xA9, 0x10], .ldaImm 0x10), ([0xA5, 0x10], .ldaZp 0x10), ([0xB5, 0x10], .ldaZpx 0x10),
     ([0xAD, 0x34, 0x12], .ldaAbs 0x1234), ([0xBD, 0x34, 0x12], .ldaAbsx 0x1234),
     ([0xB9, 0x34, 0x12], .ldaAbsy 0x1234), ([0xA1, 0x10], .ldaIndx 0x10), ([0xB1, 0x10], .ldaIndy 0x10),
     ([0xA2, 0x10], .ldxImm 0x10), ([0xA6, 0x10], .ldxZp 0x10), ([0xB6, 0x10], .ldxZpy 0x10),
     ([0xAE, 0x34, 0x12], .ldxAbs 0x1234), ([0xBE, 0x34, 0x12], .ldxAbsy 0x1234), ([0xA0, 0x10], .ldyImm 0x10),
     ([0xA4, 0x10], .ldyZp 0x10), ([0xB4, 0x10], .ldyZpx 0x10), ([0xAC, 0x34, 0x12], .ldyAbs 0x1234),
     ([0xBC, 0x34, 0x12], .ldyAbsx 0x1234), ([0x85, 0x10], .staZp 0x10), ([0x95, 0x10], .staZpx 0x10),
     ([0x8D, 0x34, 0x12], .staAbs 0x1234), ([0x9D, 0x34, 0x12], .staAbsx 0x1234),
     ([0x99, 0x34, 0x12], .staAbsy 0x1234), ([0x81, 0x10], .staIndx 0x10), ([0x91, 0x10], .staIndy 0x10),
     ([0x86, 0x10], .stxZp 0x10)] = true := by
  decide +kernel

theorem test_decode_loads_stores_transfers_2 : decodesAll
    [([0x96, 0x10], .stxZpy 0x10), ([0x8E, 0x34, 0x12], .stxAbs 0x1234), ([0x84, 0x10], .styZp 0x10),
     ([0x94, 0x10], .styZpx 0x10), ([0x8C, 0x34, 0x12], .styAbs 0x1234), ([0xAA], .tax), ([0xA8], .tay),
     ([0x8A], .txa), ([0x98], .tya), ([0xBA], .tsx), ([0x9A], .txs)] = true := by
  decide +kernel

theorem test_decode_logic_compare_1 : decodesAll
    [([0x29, 0x10], .andImm 0x10), ([0x25, 0x10], .andZp 0x10), ([0x35, 0x10], .andZpx 0x10),
     ([0x2D, 0x34, 0x12], .andAbs 0x1234), ([0x3D, 0x34, 0x12], .andAbsx 0x1234),
     ([0x39, 0x34, 0x12], .andAbsy 0x1234), ([0x21, 0x10], .andIndx 0x10), ([0x31, 0x10], .andIndy 0x10),
     ([0x09, 0x10], .oraImm 0x10), ([0x05, 0x10], .oraZp 0x10), ([0x15, 0x10], .oraZpx 0x10),
     ([0x0D, 0x34, 0x12], .oraAbs 0x1234), ([0x1D, 0x34, 0x12], .oraAbsx 0x1234),
     ([0x19, 0x34, 0x12], .oraAbsy 0x1234), ([0x01, 0x10], .oraIndx 0x10), ([0x11, 0x10], .oraIndy 0x10),
     ([0x49, 0x10], .eorImm 0x10), ([0x45, 0x10], .eorZp 0x10), ([0x55, 0x10], .eorZpx 0x10),
     ([0x4D, 0x34, 0x12], .eorAbs 0x1234), ([0x5D, 0x34, 0x12], .eorAbsx 0x1234),
     ([0x59, 0x34, 0x12], .eorAbsy 0x1234), ([0x41, 0x10], .eorIndx 0x10), ([0x51, 0x10], .eorIndy 0x10),
     ([0x24, 0x10], .bitZp 0x10), ([0x2C, 0x34, 0x12], .bitAbs 0x1234)] = true := by
  decide +kernel

theorem test_decode_logic_compare_2 : decodesAll
    [([0xC9, 0x10], .cmpImm 0x10), ([0xC5, 0x10], .cmpZp 0x10), ([0xD5, 0x10], .cmpZpx 0x10),
     ([0xCD, 0x34, 0x12], .cmpAbs 0x1234), ([0xDD, 0x34, 0x12], .cmpAbsx 0x1234),
     ([0xD9, 0x34, 0x12], .cmpAbsy 0x1234), ([0xC1, 0x10], .cmpIndx 0x10), ([0xD1, 0x10], .cmpIndy 0x10),
     ([0xE0, 0x10], .cpxImm 0x10), ([0xE4, 0x10], .cpxZp 0x10), ([0xEC, 0x34, 0x12], .cpxAbs 0x1234),
     ([0xC0, 0x10], .cpyImm 0x10), ([0xC4, 0x10], .cpyZp 0x10), ([0xCC, 0x34, 0x12], .cpyAbs 0x1234)] = true := by
  decide +kernel

theorem test_decode_arithmetic_1 : decodesAll
    [([0x69, 0x10], .adcImm 0x10), ([0x65, 0x10], .adcZp 0x10), ([0x75, 0x10], .adcZpx 0x10),
     ([0x6D, 0x34, 0x12], .adcAbs 0x1234), ([0x7D, 0x34, 0x12], .adcAbsx 0x1234),
     ([0x79, 0x34, 0x12], .adcAbsy 0x1234), ([0x61, 0x10], .adcIndx 0x10), ([0x71, 0x10], .adcIndy 0x10),
     ([0xE9, 0x10], .sbcImm 0x10), ([0xE5, 0x10], .sbcZp 0x10), ([0xF5, 0x10], .sbcZpx 0x10),
     ([0xED, 0x34, 0x12], .sbcAbs 0x1234), ([0xFD, 0x34, 0x12], .sbcAbsx 0x1234),
     ([0xF9, 0x34, 0x12], .sbcAbsy 0x1234), ([0xE1, 0x10], .sbcIndx 0x10), ([0xF1, 0x10], .sbcIndy 0x10),
     ([0xE6, 0x10], .incZp 0x10), ([0xF6, 0x10], .incZpx 0x10), ([0xEE, 0x34, 0x12], .incAbs 0x1234),
     ([0xFE, 0x34, 0x12], .incAbsx 0x1234), ([0xC6, 0x10], .decZp 0x10), ([0xD6, 0x10], .decZpx 0x10),
     ([0xCE, 0x34, 0x12], .decAbs 0x1234), ([0xDE, 0x34, 0x12], .decAbsx 0x1234), ([0xE8], .inx), ([0xC8], .iny)] = true := by
  decide +kernel

theorem test_decode_arithmetic_2 : decodesAll
    [([0xCA], .dex), ([0x88], .dey)] = true := by
  decide +kernel

theorem test_decode_shifts : decodesAll
    [([0x06, 0x10], .aslZp 0x10), ([0x16, 0x10], .aslZpx 0x10), ([0x0E, 0x34, 0x12], .aslAbs 0x1234),
     ([0x1E, 0x34, 0x12], .aslAbsx 0x1234), ([0x0A], .aslAcc), ([0x46, 0x10], .lsrZp 0x10),
     ([0x56, 0x10], .lsrZpx 0x10), ([0x4E, 0x34, 0x12], .lsrAbs 0x1234), ([0x5E, 0x34, 0x12], .lsrAbsx 0x1234),
     ([0x4A], .lsrAcc), ([0x26, 0x10], .rolZp 0x10), ([0x36, 0x10], .rolZpx 0x10),
     ([0x2E, 0x34, 0x12], .rolAbs 0x1234), ([0x3E, 0x34, 0x12], .rolAbsx 0x1234), ([0x2A], .rolAcc),
     ([0x66, 0x10], .rorZp 0x10), ([0x76, 0x10], .rorZpx 0x10), ([0x6E, 0x34, 0x12], .rorAbs 0x1234),
     ([0x7E, 0x34, 0x12], .rorAbsx 0x1234), ([0x6A], .rorAcc)] = true := by
  decide +kernel

theorem test_decode_stack : decodesAll
    [([0x48], .pha), ([0x08], .php), ([0x68], .pla), ([0x28], .plp)] = true := by
  decide +kernel

theorem test_decode_control : decodesAll
    [([0x4C, 0x34, 0x12], .jmpAbs 0x1234), ([0x6C, 0x34, 0x12], .jmpInd 0x1234), ([0x20, 0x34, 0x12], .jsr 0x1234),
     ([0x60], .rts), ([0x40], .rti), ([0x90, 0x10], .bcc 0x10), ([0xB0, 0x10], .bcs 0x10), ([0xF0, 0x10], .beq 0x10),
     ([0xD0, 0x10], .bne 0x10), ([0x10, 0x10], .bpl 0x10), ([0x30, 0x10], .bmi 0x10), ([0x50, 0x10], .bvc 0x10),
     ([0x70, 0x10], .bvs 0x10), ([0x00], .brk), ([0xEA], .nop)] = true := by
  decide +kernel

theorem test_decode_flags : decodesAll
    [([0x18], .clc), ([0xD8], .cld), ([0x58], .cli), ([0xB8], .clv), ([0x38], .sec), ([0xF8], .sed), ([0x78], .sei)] = true := by
  decide +kernel

/-- Bytes of the matrix of R87 that have no entry (R88). -/
theorem test_decode_undefined :
    [0x02, 0x0B, 0x1A, 0x3A, 0x80, 0x89, 0x9B, 0x9E, 0xEB, 0xFF].all
      (fun op => (lookupOpcode op).isNone) = true := by
  decide +kernel

theorem test_decode_truncated :
    decode [] = .error .truncated ∧ decode [0xA9] = .error .truncated ∧ decode [0xAD, 0x34] = .error .truncated := by
  exact ⟨rfl, rfl, rfl⟩

/-- Bytes after the instruction are left over. -/
theorem test_decode_rest : decode [0xE8, 0xCA] = .ok (.inx, [0xCA]) := rfl

/-- A table word has its bytes low first; the bits above `nbits` are zero. -/
theorem test_decodeTableWord :
    decodeTableWord 24 0x1234AD = some (.ldaAbs 0x1234) ∧ decodeTableWord 8 0x1234AD = some (.ldaAbs 0x0000) ∧
      decodeTableWord 16 0x10B6 = some (.ldxZpy 0x10) ∧ decodeTableWord 8 0x02 = none := by decide +kernel

/-- The first instruction after reset is the one placed by `withFetchWord`. -/
theorem test_first_step_after_reset :
    (match step (State.reset.withFetchWord 8 0xE8) with
      | .next t => some (t.x, t.pc)
      | _ => none) = some (0x01, 0x0001) := by decide

/-! Reset (R40), V210 and V211. -/

theorem test_reset_registers :
    State.reset.pc = 0x0000 ∧ State.reset.sp = 0xFF ∧ State.reset.p = 0x00 ∧ State.reset.x = 0x00 ∧ State.reset.y = 0x00 := by
  decide

/-- V210: no vector is read. -/
theorem test_reset_command :
    let s := setUp { start with x := 0x34, sp := 0x10, p := 0xFF, pc := 0x1234 } [(0xFFFD, 0x80), (0x0010, 0xAA)] []
    (s.drive (.reset 0x7E)).state.pc = 0x0000 ∧ (s.drive (.reset 0x7E)).state.read 0x0010 = 0xAA := by decide

/-- V211: with memory all zero the first step is BRK at 0x0000. -/
theorem test_reset_then_clock :
    let t := (State.reset.drive .clock).state
    (t.pc, t.sp, t.p, t.read 0x01FE, t.read 0x01FD) = (0x0000, 0xFC, 0x04, 0x02, 0x14) := by decide

/-! Undefined opcodes, V202 and V203. -/

theorem test_undefined_80 :
    (setUp start [] [0x80, 0x10]).drive .clock =
      { state := setUp start [] [0x80, 0x10], signal := some (.undefinedOpcode 0x80 0x0500) } := by decide

theorem test_undefined_1A :
    (setUp start [] [0x1A]).drive .clock =
      { state := setUp start [] [0x1A], signal := some (.undefinedOpcode 0x1A 0x0500) } := by decide

/-! Memory in its canonical form: a zero is unlisted, addresses rise. -/

theorem test_memory_canonical :
    (((start.write 0x0200 0x01).write 0x0100 0x02).write 0x0200 0x00).mem = [(0x0100, 0x02)] ∧
      Memory.wf [(0x0200, 0x01), (0x0100, 0x02)] = false ∧ Memory.wf [(0x0100, 0x00)] = false := by decide

/-! The two readings of a branch byte (R86). -/

theorem test_relative_readings :
    relOffsetUnder .excess128 0x88 = 8 ∧ relOffsetUnder .excess128 0x00 = 0xFF80 ∧
      relOffsetUnder .twosComplement 0xFD = 0xFFFD := by decide

/-! Loads and the addressing modes (vectors of 2.1) -/

/-- V1: `LDA #$00`. -/
theorem test_lda_zero_sets_z :
    after { start with a := 0x55 } [] [0xA9, 0x00] (fun t => (t.a, t.p)) = some (0x00, 0x02) := by decide

/-- V3: `LDA #$01`. -/
theorem test_lda_keeps_c_v :
    after { start with p := 0xC3 } [] [0xA9, 0x01] (fun t => (t.a, t.p)) = some (0x01, 0x41) := by decide

/-- V5: `LDA $FF,X`. -/
theorem test_lda_zpx_wraps_in_page_zero :
    after { start with x := 0x01 } [(0x0000, 0x5A), (0x0100, 0xEE)] [0xB5, 0xFF]
      (fun t => (t.a, t.pc)) = some (0x5A, 0x0502) := by decide

/-- V7: `LDA $1234`. -/
theorem test_lda_abs_low_byte_first :
    after start [(0x1234, 0x42)] [0xAD, 0x34, 0x12] (fun t => (t.a, t.pc)) = some (0x42, 0x0503) := by decide

/-- V8: `LDA $12F0,X`. -/
theorem test_lda_absx_crosses_page :
    after { start with x := 0x20 } [(0x1310, 0x99)] [0xBD, 0xF0, 0x12]
      (fun t => (t.a, t.p)) = some (0x99, 0x80) := by decide

/-- V9: `LDA $FFFF,Y`. -/
theorem test_lda_absy_wraps_at_top :
    after { start with y := 0x02 } [(0x0001, 0x33)] [0xB9, 0xFF, 0xFF]
      (fun t => (t.a, t.pc)) = some (0x33, 0x0503) := by decide

/-- V12: `LDA ($FE,X)`. -/
theorem test_lda_indx_pointer_wraps :
    after { start with x := 0x01 } [(0x00FF, 0x34), (0x0000, 0x12), (0x0100, 0xEE), (0x1234, 0x99)] [0xA1, 0xFE]
      (fun t => (t.a, t.p)) = some (0x99, 0x80) := by decide

/-- V14: `LDA ($FF),Y`. -/
theorem test_lda_indy_pointer_wraps :
    after { start with y := 0x10 } [(0x00FF, 0xF0), (0x0000, 0x12), (0x0100, 0xEE), (0x1300, 0x77)] [0xB1, 0xFF]
      (fun t => (t.a, t.pc)) = some (0x77, 0x0502) := by decide

/-- V15: `LDA ($10),Y`. -/
theorem test_lda_indy_sum_wraps :
    after { start with y := 0x02 } [(0x0010, 0xFF), (0x0011, 0xFF), (0x0001, 0x44)] [0xB1, 0x10]
      (fun t => (t.a, t.pc)) = some (0x44, 0x0502) := by decide

/-- V22: `LDA $0002`. -/
theorem test_lda_fetch_wraps_at_top :
    after { start with pc := 0xFFFF } [(0x0002, 0x5C)] [0xAD, 0x02, 0x00]
      (fun t => (t.a, t.pc)) = some (0x5C, 0x0002) := by decide

/-- V17: `LDX $F0,Y`. -/
theorem test_ldx_zpy_wraps :
    after { start with y := 0x20 } [(0x0010, 0x07), (0x0110, 0xEE)] [0xB6, 0xF0]
      (fun t => (t.x, t.pc)) = some (0x07, 0x0502) := by decide

/-- V21: `LDX $10,Y`. -/
theorem test_ldx_uses_y_not_x :
    after { start with y := 0x05, x := 0x09 } [(0x0015, 0x01)] [0xB6, 0x10]
      (fun t => (t.x, t.pc)) = some (0x01, 0x0502) := by decide

/-- V19: `LDY $10,X`. -/
theorem test_ldy_zpx_sets_n :
    after { start with x := 0x02 } [(0x0012, 0x80)] [0xB4, 0x10]
      (fun t => (t.y, t.p)) = some (0x80, 0x80) := by decide

/-- V20: `LDY $0300,X`. -/
theorem test_ldy_absx :
    after { start with x := 0xFF } [(0x03FF, 0x7F)] [0xBC, 0x00, 0x03]
      (fun t => (t.y, t.pc)) = some (0x7F, 0x0503) := by decide

/-! Stores (2.2) -/

/-- V31: `STA $0200,X`. -/
theorem test_sta_zero_keeps_flags :
    after { start with a := 0x00, x := 0x05, p := 0x80 } [(0x0205, 0xFF)] [0x9D, 0x00, 0x02]
      (fun t => (t.read 0x0205, t.p)) = some (0x00, 0x80) := by decide

/-- V34: `STA ($40),Y`. -/
theorem test_sta_indy :
    after { start with a := 0xEE, y := 0x01 } [(0x0040, 0xFF), (0x0041, 0x02)] [0x91, 0x40]
      (fun t => (t.read 0x0300, t.pc)) = some (0xEE, 0x0502) := by decide

/-- V33: `STA ($40,X)`. -/
theorem test_sta_indx :
    after { start with a := 0x5A, x := 0x02 } [(0x0042, 0x00), (0x0043, 0x03)] [0x81, 0x40]
      (fun t => (t.read 0x0300, t.pc)) = some (0x5A, 0x0502) := by decide

/-- V35: `STX $F0,Y`. -/
theorem test_stx_zpy_wraps :
    after { start with x := 0x77, y := 0x20 } [] [0x96, 0xF0]
      (fun t => (t.read 0x0010, t.pc)) = some (0x77, 0x0502) := by decide

/-- V36: `STX $0300`. -/
theorem test_stx_no_n :
    after { start with x := 0x80 } [] [0x8E, 0x00, 0x03]
      (fun t => (t.read 0x0300, t.pc)) = some (0x80, 0x0503) := by decide

/-- V37: `STY $10,X`. -/
theorem test_sty_zpx :
    after { start with y := 0x33, x := 0x01 } [] [0x94, 0x10]
      (fun t => (t.read 0x0011, t.pc)) = some (0x33, 0x0502) := by decide

/-- V38: `STY $20`. -/
theorem test_sty_no_z :
    after { start with y := 0x00 } [(0x0020, 0xFF)] [0x84, 0x20]
      (fun t => (t.read 0x0020, t.pc)) = some (0x00, 0x0502) := by decide

/-! Register transfers (2.3) -/

/-- V40: `TAX`. -/
theorem test_tax :
    after { start with a := 0x80 } [] [0xAA] (fun t => (t.x, t.p)) = some (0x80, 0x80) := by decide

/-- V41: `TAY`. -/
theorem test_tay :
    after { start with a := 0x00, y := 0x55 } [] [0xA8] (fun t => (t.y, t.p)) = some (0x00, 0x02) := by decide

/-- V42: `TXA`. -/
theorem test_txa :
    after { start with x := 0x7F, a := 0x80, p := 0x80 } [] [0x8A]
      (fun t => (t.a, t.p)) = some (0x7F, 0x00) := by decide

/-- V43: `TYA`. -/
theorem test_tya :
    after { start with y := 0xFF } [] [0x98] (fun t => (t.a, t.p)) = some (0xFF, 0x80) := by decide

/-- V44: `TSX`. -/
theorem test_tsx_sets_n :
    after { start with sp := 0xFD } [] [0xBA] (fun t => (t.x, t.p)) = some (0xFD, 0x80) := by decide

/-- V45: `TSX`. -/
theorem test_tsx_sets_z :
    after { start with sp := 0x00, x := 0x55 } [] [0xBA] (fun t => (t.x, t.p)) = some (0x00, 0x02) := by decide

/-- V46: `TXS`. -/
theorem test_txs_zero_no_flag :
    after { start with x := 0x00, p := 0xC1 } [] [0x9A] (fun t => (t.sp, t.p)) = some (0x00, 0xC1) := by decide

/-- V47: `TXS`. -/
theorem test_txs_no_n :
    after { start with x := 0x80 } [] [0x9A] (fun t => (t.sp, t.pc)) = some (0x80, 0x0501) := by decide

/-! Logic, bit test and compare (2.4) -/

/-- V50: `AND #$3C`. -/
theorem test_and_imm :
    after { start with a := 0xF0 } [] [0x29, 0x3C] (fun t => (t.a, t.pc)) = some (0x30, 0x0502) := by decide

/-- V52: `AND $10`. -/
theorem test_and_zp_keeps_c_v :
    after { start with a := 0xFF, p := 0x43 } [(0x0010, 0x80)] [0x25, 0x10]
      (fun t => (t.a, t.p)) = some (0x80, 0xC1) := by decide

/-- V53: `ORA #$80`. -/
theorem test_ora_imm :
    after { start with a := 0x0F } [] [0x09, 0x80] (fun t => (t.a, t.p)) = some (0x8F, 0x80) := by decide

/-- V55: `ORA ($20),Y`. -/
theorem test_ora_indy :
    after { start with a := 0x01, y := 0x01 } [(0x0020, 0x00), (0x0021, 0x03), (0x0301, 0x02)] [0x11, 0x20]
      (fun t => (t.a, t.pc)) = some (0x03, 0x0502) := by decide

/-- V56: `EOR #$FF`. -/
theorem test_eor_imm :
    after { start with a := 0xAA } [] [0x49, 0xFF] (fun t => (t.a, t.pc)) = some (0x55, 0x0502) := by decide

/-- V58: `EOR $0300,X`. -/
theorem test_eor_absx :
    after { start with a := 0x0F, x := 0x01 } [(0x0301, 0x8F)] [0x5D, 0x00, 0x03]
      (fun t => (t.a, t.p)) = some (0x80, 0x80) := by decide

/-- V59: `BIT $10`. -/
theorem test_bit_copies_bits_7_and_6 :
    after { start with a := 0x01 } [(0x0010, 0xC0)] [0x24, 0x10]
      (fun t => (t.p, t.pc)) = some (0xC2, 0x0502) := by decide

/-- V60: `BIT $10`. -/
theorem test_bit_clears_all_three :
    after { start with a := 0xFF, p := 0xC2 } [(0x0010, 0x3F)] [0x24, 0x10]
      (fun t => (t.p, t.pc)) = some (0x00, 0x0502) := by decide

/-- V63: `CMP #$02`. -/
theorem test_cmp_less :
    after { start with a := 0x01 } [] [0xC9, 0x02] (fun t => (t.p, t.pc)) = some (0x80, 0x0502) := by decide

/-- V67: `CMP #$FF`. -/
theorem test_cmp_borrow_positive :
    after { start with a := 0x00, p := 0x83 } [] [0xC9, 0xFF]
      (fun t => (t.p, t.pc)) = some (0x00, 0x0502) := by decide

/-- V69: `CPX #$10`. -/
theorem test_cpx_equal :
    after { start with x := 0x10 } [] [0xE0, 0x10] (fun t => (t.p, t.pc)) = some (0x03, 0x0502) := by decide

/-- V70: `CPX $10`. -/
theorem test_cpx_greater :
    after { start with x := 0x10 } [(0x0010, 0x0F)] [0xE4, 0x10]
      (fun t => (t.p, t.pc)) = some (0x01, 0x0502) := by decide

/-- V71: `CPY #$01`. -/
theorem test_cpy_less :
    after { start with y := 0x00 } [] [0xC0, 0x01] (fun t => (t.p, t.pc)) = some (0x80, 0x0502) := by decide

/-- V72: `CPY $0300`. -/
theorem test_cpy_equal_clears_n :
    after { start with y := 0x80, p := 0x80 } [(0x0300, 0x80)] [0xCC, 0x00, 0x03]
      (fun t => (t.p, t.pc)) = some (0x03, 0x0503) := by decide

/-! Add, subtract, increment, decrement (2.5) -/

/-- V84: `ADC #$FF`. -/
theorem test_adc_imm_full_carry :
    after { start with a := 0xFF, p := 0x01 } [] [0x69, 0xFF]
      (fun t => (t.p, t.pc)) = some (0x81, 0x0502) := by decide

/-- V85: `ADC #$09`. -/
theorem test_adc_imm_ignores_d :
    after { start with a := 0x09, p := 0x08 } [] [0x69, 0x09]
      (fun t => (t.a, t.p)) = some (0x12, 0x08) := by decide

/-- V87: `ADC ($20,X)`. -/
theorem test_adc_indx :
    after { start with a := 0x01, x := 0x02 } [(0x0022, 0x00), (0x0023, 0x03), (0x0300, 0x02)] [0x61, 0x20]
      (fun t => (t.a, t.pc)) = some (0x03, 0x0502) := by decide

/-- V93: `SBC #$B0`. -/
theorem test_sbc_imm_overflow :
    after { start with a := 0x50, p := 0x01 } [] [0xE9, 0xB0]
      (fun t => (t.a, t.p)) = some (0xA0, 0xC0) := by decide

/-- V94: `SBC #$01`. -/
theorem test_sbc_imm_ignores_d :
    after { start with a := 0x10, p := 0x09 } [] [0xE9, 0x01]
      (fun t => (t.a, t.p)) = some (0x0F, 0x09) := by decide

/-- V95: `INC $10`. -/
theorem test_inc_wraps :
    after { start with p := 0x01 } [(0x0010, 0xFF)] [0xE6, 0x10]
      (fun t => (t.p, t.read 0x0010)) = some (0x03, 0x00) := by decide

/-- V97: `INC $02FF,X`. -/
theorem test_inc_absx :
    after { start with x := 0x01 } [(0x0300, 0x00)] [0xFE, 0xFF, 0x02]
      (fun t => (t.read 0x0300, t.pc)) = some (0x01, 0x0503) := by decide

/-- V98: `DEC $10`. -/
theorem test_dec_wraps :
    after start [(0x0010, 0x00)] [0xC6, 0x10] (fun t => (t.p, t.read 0x0010)) = some (0x80, 0xFF) := by decide

/-- V99: `DEC $10,X`. -/
theorem test_dec_zpx :
    after { start with x := 0x05 } [(0x0015, 0x01)] [0xD6, 0x10]
      (fun t => (t.p, t.read 0x0015)) = some (0x02, 0x00) := by decide

/-- V101: `INX`. -/
theorem test_inx_wraps :
    after { start with x := 0xFF } [] [0xE8] (fun t => (t.x, t.p)) = some (0x00, 0x02) := by decide

/-- V103: `INY`. -/
theorem test_iny_sets_n :
    after { start with y := 0x7F } [] [0xC8] (fun t => (t.y, t.p)) = some (0x80, 0x80) := by decide

/-- V104: `DEX`. -/
theorem test_dex_wraps_keeps_c :
    after { start with x := 0x00, p := 0x01 } [] [0xCA] (fun t => (t.x, t.p)) = some (0xFF, 0x81) := by decide

/-- V107: `DEY`. -/
theorem test_dey_wraps :
    after { start with y := 0x00 } [] [0x88] (fun t => (t.y, t.p)) = some (0xFF, 0x80) := by decide

/-! Shifts and rotates (2.6) -/

/-- V110: `ASL A`. -/
theorem test_asl_acc :
    after { start with a := 0x81 } [] [0x0A] (fun t => (t.a, t.p)) = some (0x02, 0x01) := by decide

/-- V111: `ASL $10`. -/
theorem test_asl_zp_keeps_a :
    after { start with a := 0x55 } [(0x0010, 0x80)] [0x06, 0x10]
      (fun t => (t.p, t.read 0x0010)) = some (0x03, 0x00) := by decide

/-- V114: `LSR A`. -/
theorem test_lsr_acc_clears_n :
    after { start with a := 0x01, p := 0x80 } [] [0x4A] (fun t => (t.a, t.p)) = some (0x00, 0x03) := by decide

/-- V116: `LSR $10,X`. -/
theorem test_lsr_zpx :
    after { start with x := 0x01, p := 0x80 } [(0x0011, 0x80)] [0x56, 0x10]
      (fun t => (t.p, t.read 0x0011)) = some (0x00, 0x40) := by decide

/-- V117: `ROL A`. -/
theorem test_rol_acc :
    after { start with a := 0x40, p := 0x01 } [] [0x2A] (fun t => (t.a, t.p)) = some (0x81, 0x80) := by decide

/-- V120: `ROL $0300,X`. -/
theorem test_rol_absx :
    after { start with x := 0x02, p := 0x01 } [(0x0302, 0xFF)] [0x3E, 0x00, 0x03]
      (fun t => (t.p, t.read 0x0302)) = some (0x81, 0xFF) := by decide

/-- V121: `ROR $10`. -/
theorem test_ror_zp :
    after { start with p := 0x01 } [(0x0010, 0x03)] [0x66, 0x10]
      (fun t => (t.p, t.read 0x0010)) = some (0x81, 0x81) := by decide

/-- V123: `ROR A`. -/
theorem test_ror_acc :
    after { start with a := 0x00, p := 0x01 } [] [0x6A] (fun t => (t.a, t.p)) = some (0x80, 0x80) := by decide

/-! Stack (2.7) -/

/-- V131: `PHA`. -/
theorem test_pha_wraps_sp :
    after { start with a := 0x42, sp := 0x00 } [] [0x48]
      (fun t => (t.sp, t.read 0x0100)) = some (0xFF, 0x42) := by decide

/-- V134: `PHP`. -/
theorem test_php_pushes_all_bits :
    after { start with p := 0xFF, sp := 0x80 } [] [0x08]
      (fun t => (t.sp, t.read 0x0180, t.p)) = some (0x7F, 0xFF, 0xFF) := by decide

/-- V136: `PLA`. -/
theorem test_pla_wraps_sp :
    after { start with sp := 0xFF } [(0x0100, 0x80)] [0x68]
      (fun t => (t.a, t.sp, t.p)) = some (0x80, 0x00, 0x80) := by decide

/-- V137: `PLP`. -/
theorem test_plp_loads_all_bits :
    after { start with sp := 0xFE } [(0x01FF, 0xFF)] [0x28]
      (fun t => (t.sp, t.p)) = some (0xFF, 0xFF) := by decide

/-- V139: `PLP`. -/
theorem test_plp_clears_all_bits :
    after { start with sp := 0xFE, p := 0xFF } [(0x01FF, 0x00)] [0x28]
      (fun t => (t.sp, t.p)) = some (0xFF, 0x00) := by decide

/-! Jumps, calls and returns (2.8) -/

/-- V140: `JMP $0600`. -/
theorem test_jmp_abs :
    after { start with p := 0xC3 } [] [0x4C, 0x00, 0x06] (fun t => t.pc) = some 0x0600 := by decide

/-- V141: `JMP ($0120)`. -/
theorem test_jmp_ind :
    after start [(0x0120, 0xFC), (0x0121, 0xBA)] [0x6C, 0x20, 0x01] (fun t => t.pc) = some 0xBAFC := by decide

/-- V142: `JMP ($02FF)`. -/
theorem test_jmp_ind_page_wrap :
    after start [(0x02FF, 0x34), (0x0200, 0x12), (0x0300, 0x56)] [0x6C, 0xFF, 0x02]
      (fun t => t.pc) = some 0x1234 := by decide

/-- V147: `JSR $0600`. -/
theorem test_jsr_overwriting_its_operand :
    after { start with pc := 0x01FD } [] [0x20, 0x00, 0x06]
      (fun t => (t.sp, t.read 0x01FF, t.read 0x01FE, t.pc)) = some (0xFD, 0x01, 0xFF, 0x0600) := by decide

/-- V148: `JSR $0610`. -/
theorem test_jsr_wraps_sp :
    after { start with sp := 0x00 } [] [0x20, 0x10, 0x06]
      (fun t => (t.sp, t.read 0x0100, t.read 0x01FF, t.pc)) = some (0xFE, 0x05, 0x02, 0x0610) := by decide

/-- V150: `RTS`. -/
theorem test_rts_wraps_pc :
    after { start with sp := 0xFD } [(0x01FE, 0xFF), (0x01FF, 0xFF)] [0x60]
      (fun t => (t.sp, t.pc)) = some (0xFF, 0x0000) := by decide

/-- V151: `RTS`. -/
theorem test_rts_wraps_sp :
    after { start with sp := 0xFF } [(0x0100, 0x10), (0x0101, 0x20)] [0x60]
      (fun t => (t.sp, t.pc)) = some (0x01, 0x2011) := by decide

/-- V152: `RTI`. -/
theorem test_rti_adds_nothing_to_pc :
    after { start with sp := 0xFC } [(0x01FD, 0x14), (0x01FE, 0x02), (0x01FF, 0x00)] [0x40]
      (fun t => (t.sp, t.p, t.pc)) = some (0xFF, 0x14, 0x0002) := by decide

/-- V153: `RTI`. -/
theorem test_rti_loads_all_bits :
    after { start with sp := 0xFC, p := 0x3C } [(0x01FD, 0xC3), (0x01FE, 0x34), (0x01FF, 0x12)] [0x40]
      (fun t => (t.sp, t.p, t.pc)) = some (0xFF, 0xC3, 0x1234) := by decide

/-! Conditional branches (2.9) -/

/-- V160: `BEQ +8`. -/
theorem test_beq_not_taken :
    after start [] [0xF0, 0x88] (fun t => t.pc) = some 0x0502 := by decide

/-- V177: `BEQ -16`. -/
theorem test_beq_wraps_below_zero :
    after { start with pc := 0x0005, p := 0x02 } [] [0xF0, 0x70] (fun t => t.pc) = some 0xFFF7 := by decide

/-- V163: `BCC +4`. -/
theorem test_bcc_taken :
    after start [] [0x90, 0x84] (fun t => t.pc) = some 0x0506 := by decide

/-- V164: `BCC +4`. -/
theorem test_bcc_not_taken :
    after { start with p := 0x01 } [] [0x90, 0x84] (fun t => t.pc) = some 0x0502 := by decide

/-- V165: `BCS -2`. -/
theorem test_bcs_to_itself :
    after { start with p := 0x01 } [] [0xB0, 0x7E] (fun t => t.pc) = some 0x0500 := by decide

/-- V166: `BCS -2`. -/
theorem test_bcs_not_taken :
    after { start with p := 0xFE } [] [0xB0, 0x7E] (fun t => t.pc) = some 0x0502 := by decide

/-- V167: `BNE -3`. -/
theorem test_bne_backward :
    after start [] [0xD0, 0x7D] (fun t => t.pc) = some 0x04FF := by decide

/-- V168: `BNE -3`. -/
theorem test_bne_not_taken :
    after { start with p := 0x02 } [] [0xD0, 0x7D] (fun t => t.pc) = some 0x0502 := by decide

/-- V169: `BPL +127`. -/
theorem test_bpl_largest_forward :
    after start [] [0x10, 0xFF] (fun t => t.pc) = some 0x0581 := by decide

/-- V170: `BPL +127`. -/
theorem test_bpl_not_taken :
    after { start with p := 0x80 } [] [0x10, 0xFF] (fun t => t.pc) = some 0x0502 := by decide

/-- V171: `BMI -128`. -/
theorem test_bmi_largest_backward :
    after { start with p := 0x80 } [] [0x30, 0x00] (fun t => (t.p, t.pc)) = some (0x80, 0x0482) := by decide

/-- V172: `BMI -128`. -/
theorem test_bmi_not_taken :
    after start [] [0x30, 0x00] (fun t => t.pc) = some 0x0502 := by decide

/-- V173: `BVC +2`. -/
theorem test_bvc_wraps_past_top :
    after { start with pc := 0xFFFD } [] [0x50, 0x82] (fun t => t.pc) = some 0x0001 := by decide

/-- V174: `BVC +2`. -/
theorem test_bvc_not_taken :
    after { start with p := 0x40 } [] [0x50, 0x82] (fun t => (t.p, t.pc)) = some (0x40, 0x0502) := by decide

/-- V175: `BVS +16`. -/
theorem test_bvs_taken :
    after { start with p := 0x40 } [] [0x70, 0x90] (fun t => (t.p, t.pc)) = some (0x40, 0x0512) := by decide

/-- V176: `BVS +16`. -/
theorem test_bvs_not_taken :
    after start [] [0x70, 0x90] (fun t => t.pc) = some 0x0502 := by decide

/-! BRK and NOP (2.10) -/

/-- V180: `BRK`. -/
theorem test_brk_end_to_end :
    after { start with pc := 0x0000 } [(0xFFFE, 0x03), (0xFFFF, 0xFF)] [0x00]
      (fun t => (t.p, t.read 0x01FD, t.pc)) = some (0x04, 0x14, 0xFF03) := by decide

/-- V182: `BRK`. -/
theorem test_brk_wraps_sp :
    after { start with p := 0x30, sp := 0x01 } [(0xFFFE, 0x00), (0xFFFF, 0x06)] [0x00]
      (fun t => (t.sp, t.read 0x0101, t.read 0x01FF)) = some (0xFE, 0x05, 0x34) := by decide

/-- V184: `NOP`. -/
theorem test_nop_keeps_p :
    after { start with p := 0xFF } [] [0xEA] (fun t => (t.p, t.pc)) = some (0xFF, 0x0501) := by decide

/-- V185: `NOP`. -/
theorem test_nop_wraps_pc :
    after { start with pc := 0xFFFF } [] [0xEA] (fun t => t.pc) = some 0x0000 := by decide

/-! Flag instructions (2.11) -/

/-- V190: `CLC`. -/
theorem test_clc :
    after { start with p := 0x83 } [] [0x18] (fun t => (t.p, t.pc)) = some (0x82, 0x0501) := by decide

/-- V191: `CLD`. -/
theorem test_cld :
    after { start with p := 0x08 } [] [0xD8] (fun t => (t.p, t.pc)) = some (0x00, 0x0501) := by decide

/-- V192: `CLI`. -/
theorem test_cli :
    after { start with p := 0x04 } [] [0x58] (fun t => (t.p, t.pc)) = some (0x00, 0x0501) := by decide

/-- V193: `CLV`. -/
theorem test_clv :
    after { start with p := 0xC0 } [] [0xB8] (fun t => (t.p, t.pc)) = some (0x80, 0x0501) := by decide

/-- V195: `SEC`. -/
theorem test_sec :
    after start [] [0x38] (fun t => (t.p, t.pc)) = some (0x01, 0x0501) := by decide

/-- V196: `SED`. -/
theorem test_sed :
    after start [] [0xF8] (fun t => (t.p, t.pc)) = some (0x08, 0x0501) := by decide

/-- V197: `SEI`. -/
theorem test_sei :
    after start [] [0x78] (fun t => (t.p, t.pc)) = some (0x04, 0x0501) := by decide


/-! Witnesses: for every statement with hypotheses, states and operands that meet all of them together, one for each
clause and at the boundary values of its range. A statement without hypotheses is not here. -/

open Sys2Proof.Claims

/-- A state whose registers and flags are not the start's: SP at its wrap; C, V and N set; two cells listed. -/
def busy : State :=
  { start with a := 0x80, x := 0xFF, y := 0x01, sp := 0x00, p := 0xC1, mem := [(0x0010, 0x7F), (0xFFFF, 0x02)] }

theorem witness_LoadPutsOperandInRegister :
    ((Instr.ldaIndy 0xFF).mnemonic, Reg.a) ∈ [(Mnemonic.lda, Reg.a), (.ldx, .x), (.ldy, .y)] ∧
      ((Instr.ldxImm 0x00).mnemonic, Reg.x) ∈ [(Mnemonic.lda, Reg.a), (.ldx, .x), (.ldy, .y)] ∧
      ((Instr.ldyAbsx 0xFFFF).mnemonic, Reg.y) ∈ [(Mnemonic.lda, Reg.a), (.ldx, .x), (.ldy, .y)] := by decide

theorem witness_StorePutsRegisterAtResolvedAddress :
    ((Instr.staAbsx 0xFFFF).mnemonic, Reg.a) ∈ [(Mnemonic.sta, Reg.a), (.stx, .x), (.sty, .y)] ∧
      ((Instr.stxZpy 0xFF).mnemonic, Reg.x) ∈ [(Mnemonic.sta, Reg.a), (.stx, .x), (.sty, .y)] ∧
      ((Instr.styAbs 0x0000).mnemonic, Reg.y) ∈ [(Mnemonic.sta, Reg.a), (.stx, .x), (.sty, .y)] := by decide

theorem witness_TransferCopiesRegister :
    let transfers : List (Instr × Reg × Reg) := [(Instr.tax, Reg.a, Reg.x), (.tay, .a, .y), (.txa, .x, .a), (.tya, .y, .a), (.tsx, .sp, .x)]
    (Instr.tax, Reg.a, Reg.x) ∈ transfers ∧ (Instr.tay, Reg.a, Reg.y) ∈ transfers ∧ (Instr.txa, Reg.x, Reg.a) ∈ transfers ∧
      (Instr.tya, Reg.y, Reg.a) ∈ transfers ∧ (Instr.tsx, Reg.sp, Reg.x) ∈ transfers := by decide

theorem witness_AndOraCombineIntoAccumulator :
    (Instr.andZp 0xFF).mnemonic = .and ∧ (Instr.oraIndx 0x00).mnemonic = .ora := by decide

theorem witness_EorCombinesIntoAccumulator : (Instr.eorAbsy 0xFFFF).mnemonic = .eor := by decide

theorem witness_BitTestSetsFlagsFromOperand :
    (Instr.bitZp 0x10).mnemonic = .bit ∧ (Instr.bitAbs 0x0000).mnemonic = .bit := by
  decide

theorem witness_CompareSetsCarryZeroNegative :
    ((Instr.cmpIndy 0xFF).mnemonic, Reg.a) ∈ [(Mnemonic.cmp, Reg.a), (.cpx, .x), (.cpy, .y)] ∧
      ((Instr.cpxZp 0x00).mnemonic, Reg.x) ∈ [(Mnemonic.cmp, Reg.a), (.cpx, .x), (.cpy, .y)] ∧
      ((Instr.cpyImm 0xFF).mnemonic, Reg.y) ∈ [(Mnemonic.cmp, Reg.a), (.cpx, .x), (.cpy, .y)] := by decide

theorem witness_AdcAddsOperandAndCarry :
    (Instr.adcImm 0xFF).mnemonic = .adc ∧ (Instr.adcIndy 0xFF).mnemonic = .adc := by
  decide

theorem witness_SbcSubtractsOperandAndBorrow :
    (Instr.sbcImm 0x00).mnemonic = .sbc ∧ (Instr.sbcAbsx 0xFFFF).mnemonic = .sbc := by
  decide

/-- 0x7F + 1 and 0x80 - 1, the two sums next to the signed range. -/
theorem witness_OverflowIsSignedOverflow :
    (operandValue (Instr.adcZp 0x10).operand { busy with a := 0x01 } = some 0x7F ∧
      (Instr.adcZp 0x10).mnemonic = .adc ∧ ∃ t, exec (.adcZp 0x10) { busy with a := 0x01 } = .next t) ∧
    (operandValue (Instr.sbcImm 0x01).operand busy = some 0x01 ∧ (Instr.sbcImm 0x01).mnemonic = .sbc ∧
      ∃ t, exec (.sbcImm 0x01) busy = .next t) :=
  ⟨⟨rfl, rfl, _, rfl⟩, rfl, rfl, _, rfl⟩

theorem witness_IncDecAdjustMemoryCell :
    (Instr.incZpx 0xFF).mnemonic = .inc ∧ (Instr.decAbs 0xFFFF).mnemonic = .dec := by decide

theorem witness_IndexIncrementDecrementWraps :
    let steps : List (Instr × Reg × Nat) := [(Instr.inx, Reg.x, 1), (.iny, .y, 1), (.dex, .x, 255), (.dey, .y, 255)]
    (Instr.inx, Reg.x, 1) ∈ steps ∧ (Instr.iny, Reg.y, 1) ∈ steps ∧ (Instr.dex, Reg.x, 255) ∈ steps ∧
      (Instr.dey, Reg.y, 255) ∈ steps := by decide

/-- Both rotates, each in Accumulator mode and in memory. -/
theorem witness_RotateMovesOperandThroughCarry :
    (Instr.rolAcc.mnemonic = .rol ∧ Instr.rolAcc.mode = .acc) ∧ (Instr.rorAcc.mnemonic = .ror ∧ Instr.rorAcc.mode = .acc) ∧
      ((Instr.rolAbsx 0xFFFF).mnemonic = .rol ∧ (Instr.rolAbsx 0xFFFF).mode ≠ .acc) ∧
      ((Instr.rorZp 0x00).mnemonic = .ror ∧ (Instr.rorZp 0x00).mode ≠ .acc) := by decide

/-- Both shifts, each in Accumulator mode and in memory. -/
theorem witness_ShiftMovesZeroIn :
    (Instr.aslAcc.mnemonic = .asl ∧ Instr.aslAcc.mode = .acc) ∧ (Instr.lsrAcc.mnemonic = .lsr ∧ Instr.lsrAcc.mode = .acc) ∧
      ((Instr.aslAbs 0xFFFF).mnemonic = .asl ∧ (Instr.aslAbs 0xFFFF).mode ≠ .acc) ∧
      ((Instr.lsrZpx 0xFF).mnemonic = .lsr ∧ (Instr.lsrZpx 0xFF).mode ≠ .acc) := by decide

theorem witness_NineRotationsRestore :
    (Instr.rolAcc = .rolAcc ∨ Instr.rolAcc = .rorAcc) ∧ (Instr.rorAcc = .rolAcc ∨ Instr.rorAcc = .rorAcc) := by decide

/-- Pointers at the end of a page, just before it, at its start, and at the top of memory. -/
theorem witness_JumpGoesToResolvedAddress :
    (0x02FF : Word).toNat % 256 = 255 ∧ (0xFFFF : Word).toNat % 256 = 255 ∧ (0x02FE : Word).toNat % 256 ≠ 255 ∧
      (0x0200 : Word).toNat % 256 ≠ 255 := by decide

/-- The state right after the JSR meets the premises, at the SP where the pushes wrap. -/
theorem witness_JsrRtsRoundTrip : ∃ t u : State, exec (.jsr 0x0610) busy = .next t ∧ u.sp = t.sp ∧
    u.read (stackCell busy.sp) = t.read (stackCell busy.sp) ∧
    u.read (stackCell (busy.sp - 1)) = t.read (stackCell (busy.sp - 1)) := ⟨_, _, rfl, rfl, rfl, rfl⟩

/-- The state right after the BRK meets the premises, at the SP where the pushes wrap. -/
theorem witness_BrkRtiRoundTrip : ∃ t u : State, exec .brk busy = .next t ∧ u.sp = t.sp ∧
    u.read (stackCell busy.sp) = t.read (stackCell busy.sp) ∧
    u.read (stackCell (busy.sp - 1)) = t.read (stackCell (busy.sp - 1)) ∧
    u.read (stackCell (busy.sp - 2)) = t.read (stackCell (busy.sp - 2)) := ⟨_, _, rfl, rfl, rfl, rfl, rfl⟩

/-- Z clear and Z set. -/
theorem witness_BeqBranchesOnZero : start.flag .z = false ∧ { start with p := 0x02 }.flag .z = true := by decide

/-- Each branch with its flag as it asks and otherwise, at the two ends of the offset. -/
theorem witness_BranchesTestTheirFlag :
    (((Instr.bcc 0x00).mnemonic, Flag.c, false) ∈ branchConditions ∧ ((Instr.bcs 0xFF).mnemonic, Flag.c, true) ∈ branchConditions ∧
      ((Instr.beq 0x00).mnemonic, Flag.z, true) ∈ branchConditions ∧ ((Instr.bne 0xFF).mnemonic, Flag.z, false) ∈ branchConditions ∧
      ((Instr.bpl 0x00).mnemonic, Flag.n, false) ∈ branchConditions ∧ ((Instr.bmi 0xFF).mnemonic, Flag.n, true) ∈ branchConditions ∧
      ((Instr.bvc 0x00).mnemonic, Flag.v, false) ∈ branchConditions ∧
      ((Instr.bvs 0xFF).mnemonic, Flag.v, true) ∈ branchConditions) ∧
    ((Instr.bcc 0x00).operand = .rel 0x00 ∧ (Instr.bvs 0xFF).operand = .rel 0xFF) ∧
    ∀ f ∈ testedFlags, start.flag f = false ∧ { start with p := 0xFF }.flag f = true := by decide

theorem witness_FlagClearsClearOneFlag :
    let clears : List (Instr × Flag) := [(Instr.clc, Flag.c), (.cld, .d), (.cli, .i), (.clv, .v)]
    (Instr.clc, Flag.c) ∈ clears ∧ (Instr.cld, Flag.d) ∈ clears ∧ (Instr.cli, Flag.i) ∈ clears ∧ (Instr.clv, Flag.v) ∈ clears := by
  decide

theorem witness_FlagSetsSetOneFlag :
    let sets : List (Instr × Flag) := [(Instr.sec, Flag.c), (.sed, .d), (.sei, .i)]
    (Instr.sec, Flag.c) ∈ sets ∧ (Instr.sed, Flag.d) ∈ sets ∧ (Instr.sei, Flag.i) ∈ sets := by decide

/-- A sequential instruction of each length. -/
theorem witness_SequentialInstructionsAdvancePc :
    (Instr.nop.mnemonic ∉ controlTransfers ∧ Instr.nop.mode ∈ [Mode.imp, .acc]) ∧
    ((Instr.staIndy 0xFF).mnemonic ∉ controlTransfers ∧
      (Instr.staIndy 0xFF).mode ∈ [Mode.imm, .zp, .zpx, .zpy, .indx, .indy, .rel]) ∧
    ((Instr.incAbsx 0xFFFF).mnemonic ∉ controlTransfers ∧ (Instr.incAbsx 0xFFFF).mode ∈ [Mode.abs, .absx, .absy, .ind]) := by
  decide

/-- For each flag an instruction that may not write it and completes. -/
theorem witness_OnlyListedInstructionsWriteFlags :
    (∃ t, exec (.staAbs 0x01FF) busy = .next t) ∧ ∀ f, Mnemonic.sta ∉ flagWriters f := by
  refine ⟨⟨_, rfl⟩, fun f => ?_⟩
  cases f <;> decide

/-- For each register an instruction that may not write it; and a shift of memory. -/
theorem witness_OnlyListedInstructionsWriteRegisters :
    (∃ t, exec .nop busy = .next t) ∧ (∀ r, Mnemonic.nop ∉ registerWriters r) ∧
    (∃ t, exec (.rorAbs 0xFFFF) busy = .next t) ∧ (Instr.rorAbs 0xFFFF).mnemonic ∈ [Mnemonic.asl, .lsr, .rol, .ror] ∧
    (Instr.rorAbs 0xFFFF).mode ≠ .acc := by
  refine ⟨⟨_, rfl⟩, fun r => ?_, ⟨_, rfl⟩, by decide, by decide⟩
  cases r <;> decide

/-- An instruction that may not write memory, and a shift of A. -/
theorem witness_OnlyListedInstructionsWriteMemory :
    ((∃ t, exec (.ldaAbs 0xFFFF) busy = .next t) ∧ (Instr.ldaAbs 0xFFFF).mnemonic ∉ memoryWriters) ∧
    (∃ t, exec .rolAcc busy = .next t) ∧ Instr.rolAcc.mode = .acc :=
  ⟨⟨⟨_, rfl⟩, by decide⟩, ⟨_, rfl⟩, rfl⟩

/-- Each push at the SP where it wraps, and the addresses next to the stack page. -/
theorem witness_PushesStayInStackPage :
    (∃ t, exec .pha busy = .next t) ∧ (∃ t, exec .php busy = .next t) ∧ (∃ t, exec (.jsr 0x0000) busy = .next t) ∧
    (∃ t, exec .brk busy = .next t) ∧
    (∀ i ∈ [Instr.pha, .php, .jsr 0x0000, .brk], i.mnemonic ∈ [Mnemonic.pha, .php, .jsr, .brk]) ∧
    (0x00FF : Word).toNat < 0x0100 ∧ 0x01FF < (0x0200 : Word).toNat :=
  ⟨⟨_, rfl⟩, ⟨_, rfl⟩, ⟨_, rfl⟩, ⟨_, rfl⟩, by decide, by decide, by decide⟩

/-- Two values of P that differ in all four of I, D, B and U; a cell that is no pushed status byte for PHP and for BRK, next
to the one that is, at the SP where the pushes wrap; and an instruction that pushes no status. -/
theorem witness_UntestedFlagsHaveNoEffect :
    (∀ f ∈ testedFlags, getFlag 0xFD f = busy.flag f) ∧ (∀ f ∈ [Flag.i, .d, .b, .u], getFlag 0xFD f ≠ busy.flag f) ∧
    (Instr.php.mnemonic = .php ∧ stackCell (busy.sp + 1) ≠ stackCell busy.sp) ∧
    (Instr.brk.mnemonic = .brk ∧ stackCell (busy.sp - 1) ≠ stackCell (busy.sp - 2)) ∧
    (Instr.adcImm 0x19).mnemonic ≠ .php ∧ (Instr.adcImm 0x19).mnemonic ≠ .brk := by decide

/-- A defined and an undefined opcode under PC. -/
theorem witness_StepRunsDecodedInstruction :
    (∃ rest, decode (setUp start [] [0xAD, 0x34, 0x12]).fetchBytes = .ok (.ldaAbs 0x1234, rest)) ∧
    decode (setUp start [] [0x02]).fetchBytes = .error (.undefinedOpcode 0x02) := ⟨⟨_, rfl⟩, rfl⟩

theorem witness_UndefinedOpcodeKeepsStateAndSignals :
    (setUp start [] [0x02]).read 0x0500 ∈ undefinedBytes ∧ (setUp start [] [0xFF]).read 0x0500 ∈ undefinedBytes := by decide

theorem witness_DefinedOpcodeAlwaysSteps :
    (setUp start [] [0x00]).read 0x0500 ∉ undefinedBytes ∧ (setUp start [] [0xFE]).read 0x0500 ∉ undefinedBytes := by decide

theorem witness_DecodeOfEncodeIsInstruction : (Instr.ldaAbsx 0xFFFF).wf = true ∧ Instr.brk.wf = true := by decide

theorem witness_EncodeOfDecodeIsBytes :
    decode [0xBD, 0xFF, 0x00, 0xEA] = .ok (.ldaAbsx 0x00FF, [0xEA]) ∧ decode [0x00] = .ok (.brk, []) := ⟨rfl, rfl⟩

theorem witness_OpcodeByteAloneDecides :
    (0x02 : Byte) ∈ undefinedBytes ∧ (0xFF : Byte) ∈ undefinedBytes ∧ (0x00 : Byte) ∉ undefinedBytes ∧
      (0xFE : Byte) ∉ undefinedBytes := by decide

theorem witness_ImmediateOperandIsByteAfterOpcode :
    (∃ rest, decode (setUp { start with pc := 0xFFFF } [] [0xA9, 0x80]).fetchBytes = .ok (.ldaImm 0x80, rest)) ∧
      (Instr.ldaImm 0x80).mode = .imm := ⟨⟨_, rfl⟩, rfl⟩

/-- Each of the three modes, its sum past the end of page zero. -/
theorem witness_ZeroPageModesStayInPageZero :
    ((∃ rest, decode (setUp busy [] [0xA5, 0xFF]).fetchBytes = .ok (.ldaZp 0xFF, rest)) ∧ (Instr.ldaZp 0xFF).mode = .zp) ∧
    ((∃ rest, decode (setUp busy [] [0xB5, 0xFF]).fetchBytes = .ok (.ldaZpx 0xFF, rest)) ∧ (Instr.ldaZpx 0xFF).mode = .zpx) ∧
    ((∃ rest, decode (setUp busy [] [0xB6, 0xFF]).fetchBytes = .ok (.ldxZpy 0xFF, rest)) ∧ (Instr.ldxZpy 0xFF).mode = .zpy) :=
  ⟨⟨⟨_, rfl⟩, rfl⟩, ⟨⟨_, rfl⟩, rfl⟩, ⟨_, rfl⟩, rfl⟩

/-- Each of the three modes, its sum past the top of memory. -/
theorem witness_AbsoluteModesAssembleAndIndex :
    ((∃ rest, decode (setUp busy [] [0xAD, 0xFF, 0xFF]).fetchBytes = .ok (.ldaAbs 0xFFFF, rest)) ∧
      (Instr.ldaAbs 0xFFFF).mode = .abs) ∧
    ((∃ rest, decode (setUp busy [] [0xBD, 0xFF, 0xFF]).fetchBytes = .ok (.ldaAbsx 0xFFFF, rest)) ∧
      (Instr.ldaAbsx 0xFFFF).mode = .absx) ∧
    ((∃ rest, decode (setUp busy [] [0xB9, 0xFF, 0xFF]).fetchBytes = .ok (.ldaAbsy 0xFFFF, rest)) ∧
      (Instr.ldaAbsy 0xFFFF).mode = .absy) :=
  ⟨⟨⟨_, rfl⟩, rfl⟩, ⟨⟨_, rfl⟩, rfl⟩, ⟨_, rfl⟩, rfl⟩

/-- The pointer at 0xFF, where its high byte is at 0x0000. -/
theorem witness_PreIndexedIndirectReadsPointerInPageZero :
    (∃ rest, decode (setUp { start with x := 0x01 } [] [0xA1, 0xFE]).fetchBytes = .ok (.ldaIndx 0xFE, rest)) ∧
      (Instr.ldaIndx 0xFE).mode = .indx := ⟨⟨_, rfl⟩, rfl⟩

/-- The pointer at 0xFF, where its high byte is at 0x0000. -/
theorem witness_PostIndexedIndirectAddsYToPointer :
    (∃ rest, decode (setUp busy [] [0xB1, 0xFF]).fetchBytes = .ok (.ldaIndy 0xFF, rest)) ∧
      (Instr.ldaIndy 0xFF).mode = .indy := ⟨⟨_, rfl⟩, rfl⟩

/-- The two ends of the offset, and a form of each mode without one. -/
theorem witness_RelativeModeGivesOffset :
    ((∃ rest, decode (setUp start [] [0xF0, 0x00]).fetchBytes = .ok (.beq 0x00, rest)) ∧ (Instr.beq 0x00).mode = .rel) ∧
    ((∃ rest, decode (setUp start [] [0xF0, 0xFF]).fetchBytes = .ok (.beq 0xFF, rest)) ∧ (Instr.beq 0xFF).mode = .rel) ∧
    ((∃ rest, decode (setUp start [] [0x4A]).fetchBytes = .ok (.lsrAcc, rest)) ∧ Instr.lsrAcc.mode = .acc) ∧
    ((∃ rest, decode (setUp start [] [0xEA]).fetchBytes = .ok (.nop, rest)) ∧ Instr.nop.mode = .imp) :=
  ⟨⟨⟨_, rfl⟩, rfl⟩, ⟨⟨_, rfl⟩, rfl⟩, ⟨⟨_, rfl⟩, rfl⟩, ⟨_, rfl⟩, rfl⟩

theorem witness_FetchWrapsPastTopOfMemory : { start with pc := 0xFFFF }.pc = 0xFFFF := rfl

/-- Each store to the first or to the last byte of what stands after it, past the top of memory too; an INC and a push, which
do not transfer control; and the JSR of V147, whose push overwrites its own operand byte. -/
theorem witness_StoreIsSeenByNextFetch :
    ((resolve (Instr.staZp 0x00).operand { start with pc := 0xFFFE }).address = some (0xFFFE + BitVec.ofNat 16 (2 + 0)) ∧
      (resolve (Instr.stxAbs 0x0505).operand start).address = some (0x0500 + BitVec.ofNat 16 (3 + 2)) ∧
      (resolve (Instr.styZpx 0x02).operand { start with pc := 0xFFFF }).address =
        some (0xFFFF + BitVec.ofNat 16 (2 + 1))) ∧
    ((Instr.incZp 0xFF).mnemonic ∉ controlTransfers ∧ Instr.pha.mnemonic ∉ controlTransfers) ∧
    ∃ rest, decode (setUp { start with pc := 0x01FD } [] [0x20, 0x00, 0x06]).fetchBytes = .ok (.jsr 0x0600, rest) :=
  ⟨by decide, by decide, _, rfl⟩

theorem witness_ReadAfterWrite : (0x0000 : Word) ≠ 0xFFFF := by decide

/-- No write; and a write, then one of zero, at the other end of memory. -/
theorem witness_UnwrittenMemoryReadsZero :
    (∀ w ∈ ([] : List (Word × Byte)), w.1 ≠ 0x0000) ∧
      ∀ w ∈ ([(0x0000, 0x01), (0x0000, 0x00)] : List (Word × Byte)), w.1 ≠ 0xFFFF := by
  refine ⟨fun w hw => absurd hw (List.not_mem_nil), fun w hw => ?_⟩
  simp only [List.mem_cons, List.not_mem_nil, or_false] at hw
  rcases hw with rfl | rfl <;> decide

/-- The JSR of V147, whose push overwrites its own operand byte. -/
theorem witness_JsrPushesReturnAndJumps :
    ∃ rest, decode (setUp { start with pc := 0x01FD } [] [0x20, 0x00, 0x06]).fetchBytes = .ok (.jsr 0x0600, rest) :=
  ⟨_, rfl⟩

/-- A step that lists a cell, and one that unlists it. -/
theorem witness_StepKeepsMemoryCanonical :
    ((setUp busy [] [0x85, 0x20]).inv = true ∧ ∃ t, step (setUp busy [] [0x85, 0x20]) = .next t) ∧
    ((setUp start [(0x0020, 0x01)] [0x85, 0x20]).inv = true ∧
      ∃ t, step (setUp start [(0x0020, 0x01)] [0x85, 0x20]) = .next t) := ⟨⟨by decide, _, rfl⟩, by decide, _, rfl⟩

theorem witness_ResetMemoryIsCanonical : busy.inv = true := by decide

end Sys2Proof.Tests
end

section
/-! PROOFS. Reads after writes (spec 20_memory.md R51, R52): one write, and a list of writes that all miss the address
read. -/

namespace Sys2Proof.Machine.State

/-- The memory after power-up has no listed cell, so every address reads as never written. -/
@[simp] theorem reset_read (a : Word) : reset.read a = 0x00 := rfl

/-- The frame of a list of writes: an address that none of them names keeps its byte. -/
theorem read_foldl_write_of_ne {a : Word} {writes : List (Word × Byte)} (s : State) (other : ∀ w ∈ writes, w.1 ≠ a) :
    (writes.foldl (fun s w => s.write w.1 w.2) s).read a = s.read a := by
  induction writes generalizing s with
  | nil => rfl
  | cons w ws ih =>
    obtain ⟨hw, hws⟩ := List.forall_mem_cons.mp other
    calc ((w :: ws).foldl (fun s w => s.write w.1 w.2) s).read a
        = (s.write w.1 w.2).read a := ih (s.write w.1 w.2) hws
      _ = s.read a := read_write_ne s w.2 hw.symm

end Sys2Proof.Machine.State

namespace Sys2Proof.Proofs

open Sys2Proof.Machine

/-- Settles O56: no write of the list touches the address, so it reads as it did in `State.reset`. -/
theorem unwrittenMemoryReadsZero : Obligations.UnwrittenMemoryReadsZero := by
  intro a writes other
  rw [State.read_foldl_write_of_ne State.reset other, State.reset_read]

/-- Settles O55: the two cases of a read after a write, at its address and at another. -/
theorem readAfterWrite : Obligations.ReadAfterWrite :=
  fun s a _ v => ⟨State.read_write_same s a v, State.read_write_ne s v⟩

end Sys2Proof.Proofs
end

section
/-! PROOFS. Where PC goes (spec 40_step_and_addressing.md R82, R101): an operation that is no control transfer advances
it by the length of its instruction. -/

namespace Sys2Proof.Machine

theorem operandLength_eq_one {m : Operand} (h : m.mode ∈ [Mode.imp, .acc]) : operandLength m = 1 := by
  cases m <;> simp [Operand.mode] at h <;> rfl

theorem operandLength_eq_two {m : Operand} (h : m.mode ∈ [Mode.imm, .zp, .zpx, .zpy, .indx, .indy, .rel]) :
    operandLength m = 2 := by
  cases m <;> simp [Operand.mode] at h <;> rfl

theorem operandLength_eq_three {m : Operand} (h : m.mode ∈ [Mode.abs, .absx, .absy, .ind]) : operandLength m = 3 := by
  cases m <;> simp [Operand.mode] at h <;> rfl

theorem eq_acc_of_mode : ∀ {m : Operand}, m.mode = .acc → m = .acc
  | .acc, _ => rfl

theorem eq_imp_of_mode : ∀ {m : Operand}, m.mode = .imp → m = .imp
  | .imp, _ => rfl

/-- An instruction whose mnemonic has no mode but Implied has no operand byte. -/
theorem operand_eq_imp {i : Instr} {n : Mnemonic} (h : i.mnemonic = n) (hn : n.modes = [.imp]) : i.operand = .imp :=
  eq_imp_of_mode (by simpa [h, hn] using mode_mem_modes i)

/-- A step on the operand's byte runs unless the operand is Implied. -/
theorem withValue_advances {m : Operand} {s : State} {k : Byte → State} {pc : Word} (hi : m.mode ≠ .imp)
    (hk : ∀ v, (k v).pc = pc) : ∃ t, withValue m s k = .next t ∧ t.pc = pc := by
  obtain ⟨v, hv⟩ := operandValue_some hi s
  exact ⟨k v, withValue_eq hv k, hk v⟩

/-- A step on the operand's address runs unless the operand is Accumulator or Implied. -/
theorem withAddress_advances {m : Operand} {s : State} {k : Word → State} {pc : Word} (ha : m.mode ≠ .acc)
    (hi : m.mode ≠ .imp) (hk : ∀ w, (k w).pc = pc) : ∃ t, withAddress m s k = .next t ∧ t.pc = pc := by
  obtain ⟨w, hw⟩ := address_some ha hi s
  exact ⟨k w, withAddress_eq hw k, hk w⟩

/-- A read-modify-write of A or of memory advances PC by the length. -/
theorem modifyOperand_advances {m : Operand} (s : State) (f : Byte → Byte × Byte) (himm : m.mode ≠ .imm)
    (himp : m.mode ≠ .imp) :
    ∃ t, modifyOperand m s f = .next t ∧ t.pc = s.pc + BitVec.ofNat 16 (operandLength m) := by
  by_cases hacc : m.mode = .acc
  · rw [eq_acc_of_mode hacc]
    exact ⟨_, modifyOperand_acc s f, rfl⟩
  · obtain ⟨w, hw⟩ := address_some hacc himp s
    exact ⟨_, modifyOperand_memory himm hw f, rfl⟩

end Sys2Proof.Machine

namespace Sys2Proof.Proofs

open Sys2Proof.Machine Sys2Proof.Claims

/-- R101: every instruction but the control transfers completes and advances PC by its length. -/
theorem exec_sequential (i : Instr) (s : State) (seq : i.mnemonic ∉ controlTransfers) :
    ∃ t, exec i s = .next t ∧ Advanced i s t := by
  unfold Advanced
  rw [exec_eq_operation]
  cases h : i.mnemonic with
  | lda | ldx | ldy | and | ora | eor | bit | cmp | cpx | cpy | adc | sbc =>
    exact withValue_advances (mode_ne h (by decide)) fun _ => rfl
  | sta | stx | sty =>
    exact withAddress_advances (mode_ne h (by decide)) (mode_ne h (by decide)) fun _ => rfl
  | inc | dec | asl | lsr | rol | ror =>
    exact modifyOperand_advances s _ (mode_ne h (by decide)) (mode_ne h (by decide))
  | tax | tay | txa | tya | tsx | txs | inx | iny | dex | dey | pha | php | pla | plp | nop | clc | cld | cli | clv
  | sec | sed | sei =>
    rw [operand_eq_imp h rfl]
    exact ⟨_, rfl, rfl⟩
  | jmp | jsr | rts | rti | brk | bcc | bcs | beq | bne | bpl | bmi | bvc | bvs =>
    exact absurd (by rw [h]; decide) seq

/-- Settles O33: PC advances by the length, and the mode gives the length. -/
theorem sequentialInstructionsAdvancePc : Obligations.SequentialInstructionsAdvancePc := by
  intro i s seq
  obtain ⟨t, ht, hpc⟩ := exec_sequential i s seq
  have advance : ∀ len, operandLength i.operand = len → t.pc.toNat = (s.pc.toNat + len) % 65536 := by
    intro len hlen
    rw [hpc, hlen, BitVec.toNat_add, BitVec.toNat_ofNat, Nat.add_mod_mod]
  exact ⟨t, ht, fun h => advance 1 (operandLength_eq_one h), fun h => advance 2 (operandLength_eq_two h),
    fun h => advance 3 (operandLength_eq_three h)⟩

end Sys2Proof.Proofs
end

section
/-! PROOFS. The effective address in numbers (spec 40_step_and_addressing.md R103 to R106, R110, R111) and the jump
that goes to it (46_control.md R210). -/

namespace Sys2Proof

namespace Machine

/-- Adding in eight bits before the zero extension keeps a sum in page zero. -/
theorem zext16_add_toNat (a b : Byte) : (zext16 (a + b)).toNat = (a.toNat + b.toNat) % 256 := by
  rw [zext16_toNat, BitVec.toNat_add]

theorem zext16_eq_ofNat (b : Byte) : zext16 b = BitVec.ofNat 16 b.toNat := (BitVec.ofNat_toNat 16 b).symm

/-- Both bytes of a page-zero pointer are read in page zero (R111, R112). -/
theorem zeroPagePointer_toNat (s : State) (z : Byte) :
    (zeroPagePointer s z).toNat = (s.read (BitVec.ofNat 16 z.toNat)).toNat +
      256 * (s.read (BitVec.ofNat 16 ((z.toNat + 1) % 256))).toNat := by
  rw [zeroPagePointer, word_toNat, zext16_eq_ofNat, zext16_eq_ofNat, BitVec.toNat_add]
  rfl

theorem lo_eq_ff_iff (w : Word) : lo w = 0xFF ↔ w.toNat % 256 = 255 := by
  rw [← BitVec.toNat_inj, lo_toNat]
  rfl

/-- A pointer in the last byte of its page takes the high byte from the start of that page (R110). -/
theorem indirectHigh_of_page_end {ptr : Word} (h : ptr.toNat % 256 = 255) : indirectHigh ptr = ptr &&& 0xFF00 :=
  if_pos ((lo_eq_ff_iff ptr).mpr h)

theorem indirectHigh_of_not_page_end {ptr : Word} (h : ptr.toNat % 256 ≠ 255) : indirectHigh ptr = ptr + 1 :=
  if_neg (mt (lo_eq_ff_iff ptr).mp h)

/-- The operand of the instruction fetched at PC, when its mode is known. -/
theorem operand_of_fetch_mode {s : State} {i : Instr} {rest : List Byte} {k : Mode}
    (h : decode s.fetchBytes = .ok (i, rest)) (hk : i.mode = k) :
    i.operand = operandOfMode k (s.read (s.pc + 1)) (s.read (s.pc + 2)) := hk ▸ operand_of_fetch h

end Machine

namespace Proofs

open Machine Claims

/-- A state differs from itself with another PC in nothing else. -/
theorem changesOnly_setPc (s : State) (w : Word) : ChangesOnly [] [] [] s (s.setPc w) :=
  ⟨fun r _ => s.setPc_reg w r, fun f _ => s.setPc_flag w f, fun a _ => s.setPc_read w a⟩

/-- Settles O21: JMP sets PC alone, and the address of the target's high byte splits on the end of the page. -/
theorem jumpGoesToResolvedAddress : Obligations.JumpGoesToResolvedAddress := by
  intro w s
  refine ⟨⟨s.setPc w, rfl, rfl, changesOnly_setPc s w⟩, _, rfl, ?_, ?_, changesOnly_setPc s _⟩
  · intro pageEnd
    rw [State.setPc_pc, word_toNat, indirectHigh_of_page_end pageEnd]
  · intro inPage
    rw [State.setPc_pc, word_toNat, indirectHigh_of_not_page_end inPage]

/-- Settles O47: the fetched operand byte is the byte at the address the resolver gives. -/
theorem immediateOperandIsByteAfterOpcode : Obligations.ImmediateOperandIsByteAfterOpcode := by
  intro s i rest h imm
  rw [operand_of_fetch_mode h imm]
  exact ⟨rfl, rfl⟩

/-- Settles O48: the index is added in eight bits, before the zero extension. -/
theorem zeroPageModesStayInPageZero : Obligations.ZeroPageModesStayInPageZero := by
  intro s i rest h
  refine ⟨fun zp => ?_, fun zpx => ?_, fun zpy => ?_⟩
  · rw [operand_of_fetch_mode h zp]
    exact ⟨_, rfl, zext16_toNat _⟩
  · rw [operand_of_fetch_mode h zpx]
    exact ⟨_, rfl, zext16_add_toNat _ s.x⟩
  · rw [operand_of_fetch_mode h zpy]
    exact ⟨_, rfl, zext16_add_toNat _ s.y⟩

/-- Settles O50: the pointer is `b0 + X` in eight bits, and so is the address after it. -/
theorem preIndexedIndirectReadsPointerInPageZero : Obligations.PreIndexedIndirectReadsPointerInPageZero := by
  intro s i rest h indx
  rw [operand_of_fetch_mode h indx]
  refine ⟨_, rfl, ?_⟩
  rw [zeroPagePointer_toNat, BitVec.toNat_add, Nat.mod_add_mod]

end Proofs

end Sys2Proof
end

section
/-! PROOFS. Loads (spec 41_load_store_transfer.md R130 to R132): a register takes the operand byte, and Z and N are set
from the byte. -/

namespace Sys2Proof

namespace Machine

theorem State.zn_flag_ne (s : State) (v : Byte) {f : Flag} (hz : f ≠ .z) (hn : f ≠ .n) :
    (s.zn v).flag f = s.flag f := by
  rw [State.flag, State.zn_p, getFlag_setZN, if_neg hn, if_neg hz, State.flag]

/-- An operand that is not Implied has a byte, and all `load` does with it: one register, Z and N, and PC. -/
theorem load_eq (r : Reg) {m : Operand} (himp : m.mode ≠ .imp) (s : State) :
    ∃ v, operandValue m s = some v ∧ load r m s = .next (((s.setReg r v).zn v).advance (operandLength m)) := by
  obtain ⟨v, hv⟩ := operandValue_some himp s
  exact ⟨v, hv, withValue_eq hv _⟩

/-- LDA, LDX and LDY are `load` of their register. -/
theorem exec_eq_load {i : Instr} {r : Reg} (h : (i.mnemonic, r) ∈ [(Mnemonic.lda, Reg.a), (.ldx, .x), (.ldy, .y)])
    (s : State) : exec i s = load r i.operand s := by
  rw [exec_eq_operation]
  simp only [List.mem_cons, List.not_mem_nil, or_false, Prod.mk.injEq] at h
  obtain ⟨hi, rfl⟩ | ⟨hi, rfl⟩ | ⟨hi, rfl⟩ := h <;> rw [hi] <;> rfl

/-- No load has the mode Implied (R94). -/
theorem load_mode_ne_imp {i : Instr} {r : Reg}
    (h : (i.mnemonic, r) ∈ [(Mnemonic.lda, Reg.a), (.ldx, .x), (.ldy, .y)]) : i.operand.mode ≠ .imp := by
  have loads : ∀ p ∈ [(Mnemonic.lda, Reg.a), (.ldx, .x), (.ldy, .y)], Mode.imp ∉ p.1.modes := by decide
  exact mode_ne rfl (loads _ h)

end Machine

namespace Proofs

open Machine Claims

/-- `setZN(v)` leaves Z and N as `ZeroNegativeOf` says (R30, R31). -/
theorem zeroNegativeOf_of_p {t : State} {v p : Byte} (h : t.p = setZN v p) : ZeroNegativeOf v t := by
  have flags := getFlag_setZN v p
  rw [← h] at flags
  exact ⟨by simp [State.flag, flags], flags .n⟩

/-- The frame of every operation that writes one register, sets Z and N and advances PC. -/
theorem changesOnly_setReg_zn_advance (s : State) (r : Reg) (v w : Byte) (len : Nat) :
    ChangesOnly [r] [.z, .n] [] s (((s.setReg r v).zn w).advance len) where
  registers q hq := by
    rw [State.advance_reg, State.zn_reg, s.setReg_reg_ne v (List.ne_of_not_mem_cons hq)]
  flags f hf := by
    obtain ⟨hz, hn⟩ : f ≠ .z ∧ f ≠ .n := by simpa using hf
    rw [State.advance_flag, State.zn_flag_ne _ w hz hn, State.setReg_flag]
  memory a _ := by rw [State.advance_read, State.zn_read, State.setReg_read]

/-- Settles O1: each of the three is `load` of its register, and no load lacks an operand byte. -/
theorem loadPutsOperandInRegister : Obligations.LoadPutsOperandInRegister := by
  intro i r s h
  obtain ⟨m, hm, hload⟩ := load_eq r (load_mode_ne_imp h) s
  refine ⟨m, _, hm, (exec_eq_load h s).trans hload, ?register, zeroNegativeOf_of_p rfl, ?pc,
    changesOnly_setReg_zn_advance s r m m _⟩
  case register => rw [State.advance_reg, State.zn_reg, State.setReg_reg]
  case pc => rw [Advanced, State.advance_pc, State.zn_pc, State.setReg_pc]

end Proofs

end Sys2Proof
end

section
/-! PROOFS. Logic and compare (spec 42_logic_compare.md R150, R151, R154 to R156): A takes a bitwise combination with
the operand byte, or C, Z and N compare a register with it. -/

namespace Sys2Proof

namespace Machine

/-- An operand that is not Implied has a byte, and all `logic` does with it: A, Z and N, and PC. -/
theorem logic_eq (f : Byte → Byte → Byte) {m : Operand} (himp : m.mode ≠ .imp) (s : State) :
    ∃ v, operandValue m s = some v ∧
      logic f m s = .next (((s.setReg .a (f s.a v)).zn (f s.a v)).advance (operandLength m)) := by
  obtain ⟨v, hv⟩ := operandValue_some himp s
  exact ⟨v, hv, withValue_eq hv _⟩

/-- An operand that is not Implied has a byte, and all `compareReg` does with it: P and PC. -/
theorem compareReg_eq (r : Reg) {m : Operand} (himp : m.mode ≠ .imp) (s : State) :
    ∃ v, operandValue m s = some v ∧
      compareReg r m s = .next ((s.setP (compareFlags (s.reg r) v s.p)).advance (operandLength m)) := by
  obtain ⟨v, hv⟩ := operandValue_some himp s
  exact ⟨v, hv, withValue_eq hv _⟩

/-- CMP, CPX and CPY are `compareReg` of their register. -/
theorem exec_eq_compareReg {i : Instr} {r : Reg}
    (h : (i.mnemonic, r) ∈ [(Mnemonic.cmp, Reg.a), (.cpx, .x), (.cpy, .y)]) (s : State) :
    exec i s = compareReg r i.operand s := by
  rw [exec_eq_operation]
  simp only [List.mem_cons, List.not_mem_nil, or_false, Prod.mk.injEq] at h
  obtain ⟨hi, rfl⟩ | ⟨hi, rfl⟩ | ⟨hi, rfl⟩ := h <;> rw [hi] <;> rfl

/-- No compare has the mode Implied (R94). -/
theorem compare_mode_ne_imp {i : Instr} {r : Reg}
    (h : (i.mnemonic, r) ∈ [(Mnemonic.cmp, Reg.a), (.cpx, .x), (.cpy, .y)]) : i.operand.mode ≠ .imp := by
  have compares : ∀ p ∈ [(Mnemonic.cmp, Reg.a), (.cpx, .x), (.cpy, .y)], Mode.imp ∉ p.1.modes := by decide
  exact mode_ne rfl (compares _ h)

/-- `compareFlags` keeps every flag but C, Z and N. -/
theorem getFlag_compareFlags_of_not_mem (r m p : Byte) {f : Flag} (h : f ∉ [Flag.c, .z, .n]) :
    getFlag (compareFlags r m p) f = getFlag p f := by
  obtain ⟨hc, hz, hn⟩ : f ≠ .c ∧ f ≠ .z ∧ f ≠ .n := by simpa using h
  rw [getFlag_compareFlags, if_neg hn, if_neg hz, if_neg hc]

/-- Bit 7 of a wrapped difference in numbers. -/
theorem sub_bit_seven (r m : Byte) : (r - m).getLsbD 7 = decide (128 ≤ (256 + r.toNat - m.toNat) % 256) := by
  have wrapped : (r - m).toNat = (256 + r.toNat - m.toNat) % 256 := by
    rw [BitVec.toNat_sub, ← Nat.sub_add_comm m.isLt.le]
  rw [bit_seven, wrapped]

end Machine

namespace Proofs

open Machine Claims

/-- What an instruction whose operation is `logic f` does, in every mode but Implied. -/
theorem exec_logic {i : Instr} {s : State} {f : Byte → Byte → Byte} (hexec : exec i s = logic f i.operand s)
    (himp : i.operand.mode ≠ .imp) :
    ∃ m t, operandValue i.operand s = some m ∧ exec i s = .next t ∧ t.a = f s.a m ∧ ZeroNegativeOf t.a t ∧
      Advanced i s t ∧ ChangesOnly [.a] [.z, .n] [] s t := by
  obtain ⟨m, hm, hlogic⟩ := logic_eq f himp s
  exact ⟨m, _, hm, hexec.trans hlogic, rfl, zeroNegativeOf_of_p rfl, rfl, changesOnly_setReg_zn_advance s .a _ _ _⟩

/-- Settles O5: AND and ORA are each `logic` of their bitwise operation, and neither lacks an operand byte. -/
theorem andOraCombineIntoAccumulator : Obligations.AndOraCombineIntoAccumulator := by
  rintro i s (hand | hora)
  · have hexec : exec i s = logic (· &&& ·) i.operand s := by rw [exec_eq_operation, hand]; rfl
    obtain ⟨m, t, hm, ht, ha, rest⟩ := exec_logic hexec (mode_ne hand (by decide))
    exact ⟨m, t, hm, ht, fun _ => ha, fun hora => absurd (hand.symm.trans hora) (by decide), rest⟩
  · have hexec : exec i s = logic (· ||| ·) i.operand s := by rw [exec_eq_operation, hora]; rfl
    obtain ⟨m, t, hm, ht, ha, rest⟩ := exec_logic hexec (mode_ne hora (by decide))
    exact ⟨m, t, hm, ht, fun hand => absurd (hora.symm.trans hand) (by decide), fun _ => ha, rest⟩

/-- The frame of every operation that writes P alone and advances PC: the flags where the new P agrees with the old. -/
theorem changesOnly_setP_advance {s : State} {p : Byte} {flags : List Flag} (len : Nat)
    (kept : ∀ f, f ∉ flags → getFlag p f = s.flag f) : ChangesOnly [] flags [] s ((s.setP p).advance len) where
  registers r _ := by rw [State.advance_reg, State.setP_reg]
  flags f hf := by rw [State.advance_flag, State.setP_flag, kept f hf]
  memory a _ := by rw [State.advance_read, State.setP_read]

/-- Settles O8: each of the three is `compareReg` of its register, and the new P is `compareFlags`. -/
theorem compareSetsCarryZeroNegative : Obligations.CompareSetsCarryZeroNegative := by
  intro i r s h
  obtain ⟨m, hm, hcompare⟩ := compareReg_eq r (compare_mode_ne_imp h) s
  refine ⟨m, _, hm, (exec_eq_compareReg h s).trans hcompare, ?carry, ?zero, ?negative, rfl,
    changesOnly_setP_advance _ fun f hf => getFlag_compareFlags_of_not_mem _ _ _ hf⟩
  case carry => simp [getFlag_compareFlags]
  case zero => simp [getFlag_compareFlags]
  case negative =>
    rw [State.advance_flag, State.setP_flag, getFlag_compareFlags, if_pos rfl, sub_bit_seven, decide_eq_true_iff]

end Proofs

end Sys2Proof
end

section
/-! PROOFS. Increment and decrement (spec 43_arith_incdec.md R173 to R178): a memory cell or an index register takes its
sum with 1 or with -1 in eight bits, and Z and N are set from the sum. -/

namespace Sys2Proof

namespace Machine

/-- An operand in memory has an address, and all `adjustMemory` does there: one cell, Z and N, and PC. -/
theorem adjustMemory_eq (delta : Byte) {m : Operand} (hacc : m.mode ≠ .acc) (himp : m.mode ≠ .imp) (himm : m.mode ≠ .imm)
    (s : State) :
    ∃ w, (resolve m s).address = some w ∧ adjustMemory delta m s =
      .next (((s.write w (s.read w + delta)).setP (setZN (s.read w + delta) s.p)).advance (operandLength m)) := by
  obtain ⟨w, hw⟩ := address_some hacc himp s
  exact ⟨w, hw, modifyOperand_memory himm hw _⟩

end Machine

namespace Proofs

open Machine Claims

/-- The frame of every read-modify-write of memory: one cell, and the flags where the new P agrees with the old. -/
theorem changesOnly_write_setP_advance {s : State} {p : Byte} {flags : List Flag} (w : Word) (v : Byte) (len : Nat)
    (kept : ∀ f, f ∉ flags → getFlag p f = s.flag f) :
    ChangesOnly [] flags [w] s (((s.write w v).setP p).advance len) where
  registers r _ := by rw [State.advance_reg, State.setP_reg, State.write_reg]
  flags f hf := by rw [State.advance_flag, State.setP_flag, kept f hf]
  memory a ha := by
    rw [State.advance_read, State.setP_read, State.read_write_ne s v (List.ne_of_not_mem_cons ha)]

/-- What an instruction whose operation is `adjustMemory delta` does, on an operand in memory. -/
theorem exec_adjustMemory {i : Instr} {s : State} {delta : Byte} (hexec : exec i s = adjustMemory delta i.operand s)
    (hacc : i.operand.mode ≠ .acc) (himp : i.operand.mode ≠ .imp) (himm : i.operand.mode ≠ .imm) :
    ∃ w t, (resolve i.operand s).address = some w ∧ exec i s = .next t ∧
      (t.read w).toNat = ((s.read w).toNat + delta.toNat) % 256 ∧ ZeroNegativeOf (t.read w) t ∧ Advanced i s t ∧
      ChangesOnly [] [.z, .n] [w] s t := by
  obtain ⟨w, hw, hadjust⟩ := adjustMemory_eq delta hacc himp himm s
  refine ⟨w, _, hw, hexec.trans hadjust, ?sum, ?flags, rfl, changesOnly_write_setP_advance w _ _ fun f hf => ?kept⟩
  case sum => rw [State.advance_read, State.setP_read, State.read_write_same, BitVec.toNat_add]
  case flags =>
    rw [State.advance_read, State.setP_read, State.read_write_same]
    exact zeroNegativeOf_of_p rfl
  case kept =>
    obtain ⟨hz, hn⟩ : f ≠ .z ∧ f ≠ .n := by simpa using hf
    exact s.zn_flag_ne _ hz hn

/-- Settles O12: INC adds 1 and DEC adds -1, which is 255 in eight bits, to the cell at the resolved address. -/
theorem incDecAdjustMemoryCell : Obligations.IncDecAdjustMemoryCell := by
  rintro i s (hinc | hdec)
  · have hexec : exec i s = adjustMemory 1 i.operand s := by rw [exec_eq_operation, hinc]; rfl
    obtain ⟨w, t, hw, ht, sum, rest⟩ :=
      exec_adjustMemory hexec (mode_ne hinc (by decide)) (mode_ne hinc (by decide)) (mode_ne hinc (by decide))
    exact ⟨w, t, hw, ht, fun _ => sum, fun hdec => absurd (hinc.symm.trans hdec) (by decide), rest⟩
  · have hexec : exec i s = adjustMemory (-1) i.operand s := by rw [exec_eq_operation, hdec]; rfl
    obtain ⟨w, t, hw, ht, sum, rest⟩ :=
      exec_adjustMemory hexec (mode_ne hdec (by decide)) (mode_ne hdec (by decide)) (mode_ne hdec (by decide))
    exact ⟨w, t, hw, ht, fun hinc => absurd (hdec.symm.trans hinc) (by decide), fun _ => sum, rest⟩

/-- All `adjustReg` does: one register takes the wrapped sum, Z and N are those of the sum, and PC goes on by 1. -/
theorem adjustReg_wraps (r : Reg) (delta : Byte) (s : State) :
    ∃ t, adjustReg r delta s = .next t ∧ (t.reg r).toNat = ((s.reg r).toNat + delta.toNat) % 256 ∧
      ZeroNegativeOf (t.reg r) t ∧ t.pc = s.pc + 1 ∧ ChangesOnly [r] [.z, .n] [] s t := by
  refine ⟨_, rfl, ?sum, ?flags, ?pc, changesOnly_setReg_zn_advance s r _ _ 1⟩
  case sum => rw [State.advance_reg, State.zn_reg, State.setReg_reg, BitVec.toNat_add]
  case flags =>
    rw [State.advance_reg, State.zn_reg, State.setReg_reg]
    exact zeroNegativeOf_of_p rfl
  case pc =>
    rw [State.advance_pc, State.zn_pc, State.setReg_pc]
    rfl

/-- Settles O13: INX and INY are `adjustReg` of their register by 1, DEX and DEY by -1, which is 255 in eight bits. -/
theorem indexIncrementDecrementWraps : Obligations.IndexIncrementDecrementWraps := by
  intro i r delta s h
  simp only [List.mem_cons, List.not_mem_nil, or_false, Prod.mk.injEq] at h
  obtain ⟨rfl, rfl, rfl⟩ | ⟨rfl, rfl, rfl⟩ | ⟨rfl, rfl, rfl⟩ | ⟨rfl, rfl, rfl⟩ := h
  · exact adjustReg_wraps .x 1 s
  · exact adjustReg_wraps .y 1 s
  · exact adjustReg_wraps .x (-1) s
  · exact adjustReg_wraps .y (-1) s

end Proofs

end Sys2Proof
end

section
/-! PROOFS. Rotates (spec 44_shift_rotate.md R190, R193, R194): A or a memory cell takes the shifted byte, C takes the
bit shifted out, and Z and N are set from the byte. -/

namespace Sys2Proof

namespace Machine

/-- All `shiftOperand` does in Accumulator mode: A, P and PC. -/
theorem shiftOperand_acc (f : Byte → ShiftResult) (s : State) :
    shiftOperand f .acc s = .next (((s.setReg .a (f s.a).value).setP (shiftFlags (f s.a) s.p)).advance 1) :=
  modifyOperand_acc s _

/-- An operand in memory has an address, and all `shiftOperand` does there: one cell, P and PC. -/
theorem shiftOperand_memory (f : Byte → ShiftResult) {m : Operand} (hacc : m.mode ≠ .acc) (himp : m.mode ≠ .imp)
    (himm : m.mode ≠ .imm) (s : State) :
    ∃ w, (resolve m s).address = some w ∧ operandValue m s = some (s.read w) ∧ shiftOperand f m s =
      .next (((s.write w (f (s.read w)).value).setP (shiftFlags (f (s.read w)) s.p)).advance (operandLength m)) := by
  obtain ⟨w, hw⟩ := address_some hacc himp s
  exact ⟨w, hw, operandValue_of_address himm hw, modifyOperand_memory himm hw _⟩

/-- `shiftFlags` puts the bit shifted out in C. -/
theorem getFlag_shiftFlags_carry (r : ShiftResult) (p : Byte) : getFlag (shiftFlags r p) .c = r.carry := by
  simp [getFlag_shiftFlags]

/-- `shiftFlags` keeps every flag but C, Z and N. -/
theorem getFlag_shiftFlags_of_not_mem (r : ShiftResult) (p : Byte) {f : Flag} (h : f ∉ [Flag.c, .z, .n]) :
    getFlag (shiftFlags r p) f = getFlag p f := by
  obtain ⟨hc, hz, hn⟩ : f ≠ .c ∧ f ≠ .z ∧ f ≠ .n := by simpa using h
  rw [getFlag_shiftFlags, if_neg hn, if_neg hz, if_neg hc]

end Machine

namespace Proofs

open Machine Claims

/-- The frame of every operation that writes one register and P and advances PC: the flags where the new P agrees with
the old. -/
theorem changesOnly_setReg_setP_advance {s : State} {p : Byte} {flags : List Flag} (r : Reg) (v : Byte) (len : Nat)
    (kept : ∀ f, f ∉ flags → getFlag p f = s.flag f) :
    ChangesOnly [r] flags [] s (((s.setReg r v).setP p).advance len) where
  registers q hq := by
    rw [State.advance_reg, State.setP_reg, s.setReg_reg_ne v (List.ne_of_not_mem_cons hq)]
  flags f hf := by rw [State.advance_flag, State.setP_flag, kept f hf]
  memory a _ := by rw [State.advance_read, State.setP_read, State.setReg_read]

/-- What an instruction whose operation is `shiftOperand f` does (R190), in Accumulator mode and in memory. -/
theorem exec_shiftOperand {i : Instr} {s : State} {f : Byte → ShiftResult}
    (hexec : exec i s = shiftOperand f i.operand s) (himp : i.operand.mode ≠ .imp) (himm : i.operand.mode ≠ .imm) :
    ∃ m t, operandValue i.operand s = some m ∧ exec i s = .next t ∧ t.flag .c = (f m).carry ∧
      ZeroNegativeOf (f m).value t ∧ Advanced i s t ∧
      (i.mode = .acc → t.a = (f m).value ∧ ChangesOnly [.a] [.c, .z, .n] [] s t) ∧
      (i.mode ≠ .acc → ∃ w, (resolve i.operand s).address = some w ∧ m = s.read w ∧ t.read w = (f m).value ∧
        ChangesOnly [] [.c, .z, .n] [w] s t) := by
  by_cases hacc : i.mode = .acc
  · have hop : i.operand = .acc := eq_acc_of_mode hacc
    have ht := hexec.trans (hop ▸ shiftOperand_acc f s)
    refine ⟨s.a, _, by rw [hop]; rfl, ht, getFlag_shiftFlags_carry _ _, zeroNegativeOf_of_p rfl, ?pc,
      fun _ => ⟨rfl, ?frame⟩, fun hmem => absurd hacc hmem⟩
    case pc =>
      rw [Advanced, hop]
      rfl
    case frame => exact changesOnly_setReg_setP_advance .a _ 1 fun g hg => getFlag_shiftFlags_of_not_mem _ _ hg
  · obtain ⟨w, hw, hm, ht⟩ := shiftOperand_memory f hacc himp himm s
    refine ⟨s.read w, _, hm, hexec.trans ht, getFlag_shiftFlags_carry _ _, zeroNegativeOf_of_p rfl, rfl,
      fun h => absurd h hacc, fun _ => ⟨w, hw, rfl, ?cell, ?frame⟩⟩
    case cell => rw [State.advance_read, State.setP_read, State.read_write_same]
    case frame => exact changesOnly_write_setP_advance w _ _ fun g hg => getFlag_shiftFlags_of_not_mem _ _ hg

/-- Settles O14: ROL is `shiftOperand` to the left and ROR to the right, each with the old C coming in. -/
theorem rotateMovesOperandThroughCarry : Obligations.RotateMovesOperandThroughCarry := by
  rintro i s (hrol | hror)
  · have hexec : exec i s = shiftOperand (shiftLeft · (s.flag .c)) i.operand s := by
      rw [exec_eq_operation, hrol]
      rfl
    obtain ⟨m, t, hm, ht, carry, rest⟩ := exec_shiftOperand hexec (mode_ne hrol (by decide)) (mode_ne hrol (by decide))
    exact ⟨m, _, t, hm, ht, fun _ => ⟨shiftLeft_value m _, carry⟩,
      fun hror => absurd (hrol.symm.trans hror) (by decide), rest⟩
  · have hexec : exec i s = shiftOperand (shiftRight · (s.flag .c)) i.operand s := by
      rw [exec_eq_operation, hror]
      rfl
    obtain ⟨m, t, hm, ht, carry, rest⟩ := exec_shiftOperand hexec (mode_ne hror (by decide)) (mode_ne hror (by decide))
    exact ⟨m, _, t, hm, ht, fun hrol => absurd (hror.symm.trans hrol) (by decide),
      fun _ => ⟨shiftRight_value m _, carry⟩, rest⟩

end Proofs

end Sys2Proof
end

section
/-! PROOFS. PHA and PLA (spec 45_stack.md R200, R201, R203, R205): the push writes at SP and then decrements it, the
pull increments SP and then reads. -/

namespace Sys2Proof

namespace Claims

open Machine

/-- Frames compose: what two steps in a row may change is what either may. -/
theorem ChangesOnly.trans {r₁ r₂ : List Reg} {f₁ f₂ : List Flag} {c₁ c₂ : List Word} {s t u : State}
    (first : ChangesOnly r₁ f₁ c₁ s t) (second : ChangesOnly r₂ f₂ c₂ t u) :
    ChangesOnly (r₂ ++ r₁) (f₂ ++ f₁) (c₂ ++ c₁) s u where
  registers r hr := by
    obtain ⟨h₂, h₁⟩ := not_or.mp (mt List.mem_append.mpr hr)
    exact (second.registers r h₂).trans (first.registers r h₁)
  flags f hf := by
    obtain ⟨h₂, h₁⟩ := not_or.mp (mt List.mem_append.mpr hf)
    exact (second.flags f h₂).trans (first.flags f h₁)
  memory w hw := by
    obtain ⟨h₂, h₁⟩ := not_or.mp (mt List.mem_append.mpr hw)
    exact (second.memory w h₂).trans (first.memory w h₁)

end Claims

namespace Proofs

open Machine Claims

/-- The machine's stack location is the one the statements name (R25). -/
theorem stackAt_eq_stackCell (sp : Byte) : stackAt sp = stackCell sp := by
  apply BitVec.eq_of_toNat_eq
  have := sp.isLt
  rw [stackAt_toNat, stackCell, BitVec.toNat_ofNat]
  omega

/-- The pushed byte stands at the old SP. -/
theorem push_read_stackCell (s : State) (v : Byte) : (s.push v).read (stackCell s.sp) = v := by
  rw [State.push_read, State.stackTop_eq, stackAt_eq_stackCell, State.read_write_same]

/-- SP after a push in numbers: `0x00` goes to `0xFF` (R200). -/
theorem push_sp_toNat (s : State) (v : Byte) : (s.push v).sp.toNat = (s.sp.toNat + 255) % 256 := by
  rw [State.push_sp, BitVec.toNat_sub, Nat.add_comm]
  rfl

/-- The frame of a push: SP and the cell it named. -/
theorem changesOnly_push (s : State) (v : Byte) : ChangesOnly [.sp] [] [stackCell s.sp] s (s.push v) where
  registers r hr := by
    rw [State.push_eq, ← State.setReg_sp, State.setReg_reg_ne _ _ (List.ne_of_not_mem_cons hr), State.write_reg]
  flags f _ := s.push_flag v f
  memory w hw := by
    rw [State.push_read, State.stackTop_eq, stackAt_eq_stackCell,
      State.read_write_ne s v (List.ne_of_not_mem_cons hw)]

/-- The byte a pull returns stands at the new SP. -/
theorem pullByte_eq_read_stackCell (s : State) : s.pullByte = s.read (stackCell s.pulled.sp) := by
  rw [State.pullByte_eq, stackAt_eq_stackCell, State.pulled_sp]

/-- SP after a pull in numbers: `0xFF` goes to `0x00` (R201). -/
theorem pulled_sp_toNat (s : State) : s.pulled.sp.toNat = (s.sp.toNat + 1) % 256 := by
  rw [State.pulled_sp, BitVec.toNat_add]
  rfl

/-- The frame of a pull: SP alone. -/
theorem changesOnly_pulled (s : State) : ChangesOnly [.sp] [] [] s s.pulled where
  registers _ hr := s.setReg_reg_ne (s.sp + 1) (List.ne_of_not_mem_cons hr)
  flags f _ := s.pulled_flag f
  memory w _ := s.pulled_read w

/-- Settles O17: PHA is a push of A, and PC goes on by 1. -/
theorem phaPushesAccumulator : Obligations.PhaPushesAccumulator := by
  intro s
  have frame := (changesOnly_push s s.a).trans (changesOnly_setPc (s.push s.a) (s.pc + 1))
  exact ⟨(s.push s.a).advance 1, rfl, push_read_stackCell s s.a, push_sp_toNat s s.a, rfl, frame⟩

/-- Settles O18: PLA is a pull, then a load of the pulled byte into A. -/
theorem plaPullsAccumulator : Obligations.PlaPullsAccumulator := by
  intro s
  have frame :=
    (changesOnly_pulled s).trans (changesOnly_setReg_zn_advance s.pulled .a s.pullByte s.pullByte 1)
  exact ⟨((s.pulled.setA s.pullByte).zn s.pullByte).advance 1, rfl, pulled_sp_toNat s, pullByte_eq_read_stackCell s,
    zeroNegativeOf_of_p rfl, rfl, frame⟩

end Proofs

end Sys2Proof
end

section
/-! PROOFS. NOP (spec 46_control.md R224): the next state is the old one with PC one further on. -/

namespace Sys2Proof

namespace Proofs

open Machine Claims

/-- Settles O32: NOP sets PC to P0 + 1, and setting PC changes nothing else. -/
theorem nopOnlyAdvancesPc : Obligations.NopOnlyAdvancesPc := by
  intro s
  have hexec : exec .nop s = .next (s.setPc (s.pc + 1)) := exec_eq_operation .nop s
  exact ⟨s.setPc (s.pc + 1), hexec, s.setPc_pc _, changesOnly_setPc s _⟩

end Proofs

end Sys2Proof
end

section
/-! PROOFS. The instructions that write one flag (spec 47_flags.md R240 to R246): one bit of P, and PC one further on. -/

namespace Sys2Proof

namespace Proofs

open Machine Claims

/-- All `writeFlag` does: the flag takes its value, and PC goes on by 1. -/
theorem writeFlag_only (f : Flag) (on : Bool) (s : State) :
    ∃ t, writeFlag f on s = .next t ∧ t.flag f = on ∧ t.pc = s.pc + 1 ∧ ChangesOnly [] [f] [] s t := by
  have kept : ∀ g, g ∉ [f] → getFlag (setFlag s.p f on) g = s.flag g :=
    fun _ hg => getFlag_setFlag_ne s.p on (List.ne_of_not_mem_cons hg)
  exact ⟨(s.putFlag f on).advance 1, rfl, getFlag_setFlag_same s.p f on, rfl, changesOnly_setP_advance 1 kept⟩

/-- Settles O30: each of the four instructions is `writeFlag` of its flag with `false`. -/
theorem flagClearsClearOneFlag : Obligations.FlagClearsClearOneFlag := by
  intro i f s h
  have hexec : exec i s = writeFlag f false s := by
    simp only [List.mem_cons, List.not_mem_nil, or_false, Prod.mk.injEq] at h
    obtain ⟨rfl, rfl⟩ | ⟨rfl, rfl⟩ | ⟨rfl, rfl⟩ | ⟨rfl, rfl⟩ := h
    · exact exec_eq_operation .clc s
    · exact exec_eq_operation .cld s
    · exact exec_eq_operation .cli s
    · exact exec_eq_operation .clv s
  rw [hexec]
  exact writeFlag_only f false s

end Proofs

end Sys2Proof
end

section
/-! PROOFS. Decode and encode (spec 30_encoding.md R80 to R94): each is the inverse of the other, and the opcode byte
alone decides. -/

namespace Sys2Proof

namespace Laws

namespace EncodedForm

/-- Every instruction is encoded as its opcode byte and the bytes of its operand (R81). -/
theorem all (i : Instr) : Statement i := by cases i <;> rfl

end EncodedForm

namespace TableEntry

/-- Every instruction is assembled by the table's entry under its opcode byte (R91): the lemmas of the 151 rows. -/
theorem all : ∀ i : Instr, Statement i
  | .ldaImm v => ldaImm v | .ldaZp a => ldaZp a | .ldaZpx a => ldaZpx a | .ldaAbs w => ldaAbs w
  | .ldaAbsx w => ldaAbsx w | .ldaAbsy w => ldaAbsy w | .ldaIndx a => ldaIndx a | .ldaIndy a => ldaIndy a
  | .ldxImm v => ldxImm v | .ldxZp a => ldxZp a | .ldxZpy a => ldxZpy a | .ldxAbs w => ldxAbs w
  | .ldxAbsy w => ldxAbsy w | .ldyImm v => ldyImm v | .ldyZp a => ldyZp a | .ldyZpx a => ldyZpx a
  | .ldyAbs w => ldyAbs w | .ldyAbsx w => ldyAbsx w | .staZp a => staZp a | .staZpx a => staZpx a
  | .staAbs w => staAbs w | .staAbsx w => staAbsx w | .staAbsy w => staAbsy w | .staIndx a => staIndx a
  | .staIndy a => staIndy a | .stxZp a => stxZp a | .stxZpy a => stxZpy a | .stxAbs w => stxAbs w
  | .styZp a => styZp a | .styZpx a => styZpx a | .styAbs w => styAbs w | .tax => tax | .tay => tay | .txa => txa
  | .tya => tya | .tsx => tsx | .txs => txs | .andImm v => andImm v | .andZp a => andZp a | .andZpx a => andZpx a
  | .andAbs w => andAbs w | .andAbsx w => andAbsx w | .andAbsy w => andAbsy w | .andIndx a => andIndx a
  | .andIndy a => andIndy a | .oraImm v => oraImm v | .oraZp a => oraZp a | .oraZpx a => oraZpx a
  | .oraAbs w => oraAbs w | .oraAbsx w => oraAbsx w | .oraAbsy w => oraAbsy w | .oraIndx a => oraIndx a
  | .oraIndy a => oraIndy a | .eorImm v => eorImm v | .eorZp a => eorZp a | .eorZpx a => eorZpx a
  | .eorAbs w => eorAbs w | .eorAbsx w => eorAbsx w | .eorAbsy w => eorAbsy w | .eorIndx a => eorIndx a
  | .eorIndy a => eorIndy a | .bitZp a => bitZp a | .bitAbs w => bitAbs w | .cmpImm v => cmpImm v
  | .cmpZp a => cmpZp a | .cmpZpx a => cmpZpx a | .cmpAbs w => cmpAbs w | .cmpAbsx w => cmpAbsx w
  | .cmpAbsy w => cmpAbsy w | .cmpIndx a => cmpIndx a | .cmpIndy a => cmpIndy a | .cpxImm v => cpxImm v
  | .cpxZp a => cpxZp a | .cpxAbs w => cpxAbs w | .cpyImm v => cpyImm v | .cpyZp a => cpyZp a | .cpyAbs w => cpyAbs w
  | .adcImm v => adcImm v | .adcZp a => adcZp a | .adcZpx a => adcZpx a | .adcAbs w => adcAbs w
  | .adcAbsx w => adcAbsx w | .adcAbsy w => adcAbsy w | .adcIndx a => adcIndx a | .adcIndy a => adcIndy a
  | .sbcImm v => sbcImm v | .sbcZp a => sbcZp a | .sbcZpx a => sbcZpx a | .sbcAbs w => sbcAbs w
  | .sbcAbsx w => sbcAbsx w | .sbcAbsy w => sbcAbsy w | .sbcIndx a => sbcIndx a | .sbcIndy a => sbcIndy a
  | .incZp a => incZp a | .incZpx a => incZpx a | .incAbs w => incAbs w | .incAbsx w => incAbsx w
  | .decZp a => decZp a | .decZpx a => decZpx a | .decAbs w => decAbs w | .decAbsx w => decAbsx w | .inx => inx
  | .iny => iny | .dex => dex | .dey => dey | .aslZp a => aslZp a | .aslZpx a => aslZpx a | .aslAbs w => aslAbs w
  | .aslAbsx w => aslAbsx w | .aslAcc => aslAcc | .lsrZp a => lsrZp a | .lsrZpx a => lsrZpx a | .lsrAbs w => lsrAbs w
  | .lsrAbsx w => lsrAbsx w | .lsrAcc => lsrAcc | .rolZp a => rolZp a | .rolZpx a => rolZpx a | .rolAbs w => rolAbs w
  | .rolAbsx w => rolAbsx w | .rolAcc => rolAcc | .rorZp a => rorZp a | .rorZpx a => rorZpx a | .rorAbs w => rorAbs w
  | .rorAbsx w => rorAbsx w | .rorAcc => rorAcc | .pha => pha | .php => php | .pla => pla | .plp => plp
  | .jmpAbs w => jmpAbs w | .jmpInd w => jmpInd w | .jsr w => jsr w | .rts => rts | .rti => rti | .bcc o => bcc o
  | .bcs o => bcs o | .beq o => beq o | .bne o => bne o | .bpl o => bpl o | .bmi o => bmi o | .bvc o => bvc o
  | .bvs o => bvs o | .brk => brk | .nop => nop | .clc => clc | .cld => cld | .cli => cli | .clv => clv | .sec => sec
  | .sed => sed | .sei => sei

end TableEntry

end Laws

namespace Proofs

open Machine Claims Laws

/-- Settles O43: the table's entry under the opcode byte of `i` assembles `i` again from its operand bytes. -/
theorem decodeOfEncodeIsInstruction : Obligations.DecodeOfEncodeIsInstruction := by
  intro i rest _
  obtain ⟨f, entry, size, assemble⟩ := TableEntry.all i
  have enough : ¬ (operandBytes i.operand ++ rest).length < (operandBytes i.operand).length := by
    rw [List.length_append]
    omega
  rw [EncodedForm.all i, List.cons_append, decode, lookup_of_mem entry]
  simp only [size, assemble rest, if_neg enough, List.drop_left]

/-- The operand bytes a form is assembled from are the first bytes after the opcode. -/
theorem take_getD {tail : List Byte} {n : Nat} (two : n ≤ 2) (enough : n ≤ tail.length) :
    [tail.getD 0 0, tail.getD 1 0].take n = tail.take n := by
  match n, tail, enough with
  | 0, _, _ => rfl
  | 1, _ :: _, _ => rfl
  | 2, _ :: _ :: _, _ => rfl

/-- Settles O44: the entry that read the instruction is the one the encoder writes. -/
theorem encodeOfDecodeIsBytes : Obligations.EncodeOfDecodeIsBytes := by
  intro bs i rest h
  obtain ⟨op, tail, f, rfl, entry, enough, rfl, rfl⟩ := decode_ok h
  rw [encode_assemble _ entry, take_getD f.size_le enough, List.cons_append, List.take_append_drop]

/-- The list of R88 holds exactly the bytes that the matrix of R87 leaves empty. -/
theorem mem_undefinedBytes_iff (op : Byte) : op ∈ undefinedBytes ↔ lookupOpcode op = none := by
  have table : ∀ op : Byte, op ∈ undefinedBytes ↔ (lookupOpcode op).isNone = true := by decide +kernel
  rw [table, Option.isNone_iff_eq_none]

/-- Settles O45: without an entry nothing decodes, and an entry fixes mnemonic, mode and length. -/
theorem opcodeByteAloneDecides : Obligations.OpcodeByteAloneDecides := by
  intro op
  cases hf : lookupOpcode op with
  | none => exact .inl ⟨(mem_undefinedBytes_iff op).mpr hf, decode_of_lookup_none hf⟩
  | some f =>
    refine .inr ⟨by simp [mem_undefinedBytes_iff, hf], f.mnemonicMode.1, f.mnemonicMode.2, fun b0 b1 bs => ?_⟩
    have entry := mem_of_lookup hf
    have mnemonic : (f.assemble b0 b1).mnemonic = f.mnemonicMode.1 := by
      rw [Instr.mnemonic, descriptor_assemble _ entry]
    have operand : (f.assemble b0 b1).operand = operandOfMode f.mnemonicMode.2 b0 b1 := by
      rw [Instr.operand, descriptor_assemble _ entry]
    refine ⟨_, _, decode_of_lookup hf b0 b1 bs, mnemonic, ?mode, ?length⟩
    case mode => rw [Instr.mode, operand, mode_operandOfMode]
    case length =>
      have size := f.size_le
      rw [operand, operandLength_size entry, List.length_drop, List.length_cons, List.length_cons]
      omega

/-- Settles O46: each word is the encoding of its instruction, so O43 decodes it. -/
theorem sampleWordsDecode : Obligations.SampleWordsDecode := by
  have sample (i : Instr) : decode (encode i ++ []) = .ok (i, []) := decodeOfEncodeIsInstruction i [] (wf_instr i)
  exact ⟨sample .inx, sample .lsrAcc, sample (.ldaImm 0x10), sample (.ldaZp 0x10), sample (.ldaZpx 0x10),
    sample (.ldxZpy 0x10), sample (.ldaAbs 0x1234), sample (.ldaAbsx 0x1234), sample (.ldaAbsy 0x1234),
    sample (.jmpInd 0x1234), sample (.ldaIndx 0x10), sample (.ldaIndy 0x10), sample (.bne 0x7D),
    sample (.staAbs 0x0200), sample (.cmpImm 0x50), sample (.adcImm 0x20), sample .php, sample .brk, sample .sei⟩

end Proofs

end Sys2Proof
end

section
/-! PROOFS. The canonical form of memory (spec 20_memory.md R50 to R52; log 19): every operation writes whole cells, and
a write keeps the form. -/

namespace Sys2Proof

namespace Machine

/-- A branch sets PC and nothing else, whether it is taken or not. -/
theorem branch_next {f : Flag} {on : Bool} {m : Operand} {s t : State} (h : branch f on m s = .next t) :
    ∃ w, t = s.setPc w := by
  obtain ⟨off, -, rfl⟩ := withOffset_next h
  split
  · exact ⟨_, rfl⟩
  · exact ⟨_, rfl⟩

/-- A read-modify-write lists or unlists at most one cell. -/
theorem wf_of_modifyOperand {m : Operand} {s t : State} {f : Byte → Byte × Byte} (hs : s.mem.wf = true)
    (h : modifyOperand m s f = .next t) : t.mem.wf = true := by
  obtain ⟨-, rfl⟩ | ⟨-, w, -, rfl⟩ := modifyOperand_next h
  · exact hs
  · exact State.wf_write hs w _

/-- Every instruction keeps the canonical form: it leaves memory alone, writes one cell or pushes. -/
theorem exec_keeps_wf {i : Instr} {s t : State} (hs : s.mem.wf = true) (h : exec i s = .next t) : t.mem.wf = true := by
  rw [exec_eq_operation] at h
  cases hi : i.mnemonic <;> rw [hi] at h
  case lda | ldx | ldy =>
    obtain ⟨v, -, rfl⟩ := withValue_next h
    rwa [State.advance_mem, State.zn_mem, State.setReg_mem]
  case and | ora | eor | bit | cmp | cpx | cpy | adc | sbc =>
    obtain ⟨v, -, rfl⟩ := withValue_next h
    exact hs
  case sta | stx | sty =>
    obtain ⟨w, -, rfl⟩ := withAddress_next h
    exact State.wf_write hs w _
  case inc | dec | asl | lsr | rol | ror => exact wf_of_modifyOperand hs h
  case jmp =>
    obtain ⟨w, -, rfl⟩ := withAddress_next h
    exact hs
  case jsr =>
    obtain ⟨w, -, rfl⟩ := withAddress_next h
    exact State.wf_pushWord hs _
  case bcc | bcs | beq | bne | bpl | bmi | bvc | bvs =>
    obtain ⟨w, rfl⟩ := branch_next h
    exact hs
  case pha | php =>
    cases h
    exact State.wf_push hs _
  case brk =>
    cases h
    exact State.wf_softwareInterrupt hs
  case rti =>
    cases h
    rwa [State.interruptReturn_mem]
  case tax | tay | txa | tya | tsx | txs | inx | iny | dex | dey | pla | plp | rts | nop | clc | cld | cli | clv | sec
    | sed | sei =>
    cases h
    exact hs

/-- What a step that answers a next state has done: run the instruction decoded from the fetched bytes. -/
theorem step_next {s t : State} (h : step s = .next t) : ∃ i, exec i s = .next t := by
  cases hf : lookupOpcode (s.read s.pc) with
  | none => cases (step_of_lookup_none hf).symm.trans h
  | some f => exact ⟨_, (step_of_lookup hf).symm.trans h⟩

end Machine

namespace Proofs

open Machine

/-- Settles O57: a step that completes is an `exec`, and every `exec` keeps the form. -/
theorem stepKeepsMemoryCanonical : Obligations.StepKeepsMemoryCanonical := by
  intro s t hs h
  obtain ⟨i, hexec⟩ := step_next h
  exact exec_keeps_wf hs hexec

/-- Settles O58: the empty list is canonical, and a reset command leaves the list as it is. -/
theorem resetMemoryIsCanonical : Obligations.ResetMemoryIsCanonical :=
  ⟨State.reset_mem_wf, fun _ _ hs => hs⟩

end Proofs

end Sys2Proof
end

section
/-! PROOFS. Stores and transfers (spec 41_load_store_transfer.md R133 to R141): one cell takes a register, or one
register takes another. -/

namespace Sys2Proof

namespace Machine

/-- An operand with an address, and all `store` does there: one cell, and PC. -/
theorem store_eq (r : Reg) {m : Operand} (hacc : m.mode ≠ .acc) (himp : m.mode ≠ .imp) (s : State) :
    ∃ w, (resolve m s).address = some w ∧
      store r m s = .next ((s.write w (s.reg r)).advance (operandLength m)) := by
  obtain ⟨w, hw⟩ := address_some hacc himp s
  exact ⟨w, hw, withAddress_eq hw _⟩

/-- STA, STX and STY are `store` of their register. -/
theorem exec_eq_store {i : Instr} {r : Reg} (h : (i.mnemonic, r) ∈ [(Mnemonic.sta, Reg.a), (.stx, .x), (.sty, .y)])
    (s : State) : exec i s = store r i.operand s := by
  rw [exec_eq_operation]
  simp only [List.mem_cons, List.not_mem_nil, or_false, Prod.mk.injEq] at h
  obtain ⟨hi, rfl⟩ | ⟨hi, rfl⟩ | ⟨hi, rfl⟩ := h <;> rw [hi] <;> rfl

/-- Every mode of a store has an address (R94). -/
theorem store_mode_ne {i : Instr} {r : Reg}
    (h : (i.mnemonic, r) ∈ [(Mnemonic.sta, Reg.a), (.stx, .x), (.sty, .y)]) :
    i.operand.mode ≠ .acc ∧ i.operand.mode ≠ .imp := by
  have stores : ∀ p ∈ [(Mnemonic.sta, Reg.a), (.stx, .x), (.sty, .y)], Mode.acc ∉ p.1.modes ∧ Mode.imp ∉ p.1.modes := by
    decide
  obtain ⟨hacc, himp⟩ := stores _ h
  exact ⟨mode_ne rfl hacc, mode_ne rfl himp⟩

end Machine

namespace Proofs

open Machine Claims

/-- The frame of a write with PC moved on: one cell. -/
theorem changesOnly_write_advance (s : State) (w : Word) (v : Byte) (len : Nat) :
    ChangesOnly [] [] [w] s ((s.write w v).advance len) where
  registers r _ := by rw [State.advance_reg, State.write_reg]
  flags f _ := by rw [State.advance_flag, State.write_flag]
  memory a ha := by rw [State.advance_read, State.read_write_ne s v (List.ne_of_not_mem_cons ha)]

/-- Settles O2: each of the three is `store` of its register, and no store lacks an address. -/
theorem storePutsRegisterAtResolvedAddress : Obligations.StorePutsRegisterAtResolvedAddress := by
  intro i r s h
  obtain ⟨hacc, himp⟩ := store_mode_ne h
  obtain ⟨w, hw, hstore⟩ := store_eq r hacc himp s
  refine ⟨w, _, hw, (exec_eq_store h s).trans hstore, ?cell, rfl, changesOnly_write_advance s w _ _⟩
  case cell => rw [State.advance_read, State.read_write_same]

/-- All `transfer` does: one register takes the other, Z and N are those of the value, and PC goes on by 1. -/
theorem transfer_copies (src dst : Reg) (s : State) :
    ∃ t, transfer src dst s = .next t ∧ t.reg dst = s.reg src ∧ ZeroNegativeOf (s.reg src) t ∧ t.pc = s.pc + 1 ∧
      ChangesOnly [dst] [.z, .n] [] s t := by
  refine ⟨_, rfl, ?register, zeroNegativeOf_of_p rfl, ?pc, changesOnly_setReg_zn_advance s dst _ _ 1⟩
  case register => rw [State.advance_reg, State.zn_reg, State.setReg_reg]
  case pc =>
    rw [State.advance_pc, State.zn_pc, State.setReg_pc]
    rfl

/-- Settles O3: each of the five is `transfer` between its registers. -/
theorem transferCopiesRegister : Obligations.TransferCopiesRegister := by
  intro i src dst s h
  have hexec : exec i s = transfer src dst s := by
    simp only [List.mem_cons, List.not_mem_nil, or_false, Prod.mk.injEq] at h
    obtain ⟨rfl, rfl, rfl⟩ | ⟨rfl, rfl, rfl⟩ | ⟨rfl, rfl, rfl⟩ | ⟨rfl, rfl, rfl⟩ | ⟨rfl, rfl, rfl⟩ := h
    · exact exec_eq_operation .tax s
    · exact exec_eq_operation .tay s
    · exact exec_eq_operation .txa s
    · exact exec_eq_operation .tya s
    · exact exec_eq_operation .tsx s
  rw [hexec]
  exact transfer_copies src dst s

/-- The frame of a register write: the register alone. -/
theorem changesOnly_setReg (s : State) (r : Reg) (v : Byte) : ChangesOnly [r] [] [] s (s.setReg r v) where
  registers _ hq := s.setReg_reg_ne v (List.ne_of_not_mem_cons hq)
  flags f _ := s.setReg_flag r v f
  memory w _ := s.setReg_read r v w

/-- Settles O4: TXS writes SP, then PC, and no step of it touches P. -/
theorem txsCopiesXAndNoFlag : Obligations.TxsCopiesXAndNoFlag := by
  intro s
  have frame := (changesOnly_setReg s .sp s.x).trans (changesOnly_setPc (s.setReg .sp s.x) (s.pc + 1))
  exact ⟨(s.setSp s.x).advance 1, exec_eq_operation .txs s, rfl, rfl, frame⟩

end Proofs

end Sys2Proof
end

section
/-! PROOFS. EOR and BIT (spec 42_logic_compare.md R152, R153), and the flag sets (47_flags.md R244 to R246). -/

namespace Sys2Proof

namespace Machine

/-- An operand that is not Implied has a byte, and all `bitTest` does with it: P and PC. -/
theorem bitTest_eq {m : Operand} (himp : m.mode ≠ .imp) (s : State) :
    ∃ v, operandValue m s = some v ∧
      bitTest m s = .next ((s.setP (bitTestFlags s.a v s.p)).advance (operandLength m)) := by
  obtain ⟨v, hv⟩ := operandValue_some himp s
  exact ⟨v, hv, withValue_eq hv _⟩

/-- `bitTestFlags` keeps every flag but Z, N and V. -/
theorem getFlag_bitTestFlags_of_not_mem (a m p : Byte) {f : Flag} (h : f ∉ [Flag.z, .n, .v]) :
    getFlag (bitTestFlags a m p) f = getFlag p f := by
  obtain ⟨hz, hn, hv⟩ : f ≠ .z ∧ f ≠ .n ∧ f ≠ .v := by simpa using h
  rw [getFlag_bitTestFlags, if_neg hv, if_neg hn, if_neg hz]

end Machine

namespace Proofs

open Machine Claims

/-- Settles O6: EOR is `logic` of the exclusive or. -/
theorem eorCombinesIntoAccumulator : Obligations.EorCombinesIntoAccumulator := by
  intro i s heor
  have hexec : exec i s = logic (· ^^^ ·) i.operand s := by rw [exec_eq_operation, heor]; rfl
  exact exec_logic hexec (mode_ne heor (by decide))

/-- Settles O7: BIT is `bitTest`, and the new P is `bitTestFlags`. -/
theorem bitTestSetsFlagsFromOperand : Obligations.BitTestSetsFlagsFromOperand := by
  intro i s hbit
  have hexec : exec i s = bitTest i.operand s := by rw [exec_eq_operation, hbit]; rfl
  obtain ⟨m, hm, htest⟩ := bitTest_eq (mode_ne hbit (by decide)) s
  refine ⟨m, _, hm, hexec.trans htest, ?zero, ?negative, ?overflow, rfl,
    changesOnly_setP_advance _ fun f hf => getFlag_bitTestFlags_of_not_mem _ _ _ hf⟩
  case zero => simp [getFlag_bitTestFlags]
  case negative => simp [getFlag_bitTestFlags]
  case overflow => simp [getFlag_bitTestFlags]

/-- Settles O31: each of the three instructions is `writeFlag` of its flag with `true`. -/
theorem flagSetsSetOneFlag : Obligations.FlagSetsSetOneFlag := by
  intro i f s h
  have hexec : exec i s = writeFlag f true s := by
    simp only [List.mem_cons, List.not_mem_nil, or_false, Prod.mk.injEq] at h
    obtain ⟨rfl, rfl⟩ | ⟨rfl, rfl⟩ | ⟨rfl, rfl⟩ := h
    · exact exec_eq_operation .sec s
    · exact exec_eq_operation .sed s
    · exact exec_eq_operation .sei s
  rw [hexec]
  exact writeFlag_only f true s

end Proofs

end Sys2Proof
end

section
/-! PROOFS. Add and subtract (spec 43_arith_incdec.md R170, R171, R179): A takes the sum or the difference, and C, V, Z
and N are those of the result, whatever D holds. -/

namespace Sys2Proof

namespace Machine

/-- An operand that is not Implied has a byte, and all `arithmetic` does with it: A, P and PC. -/
theorem arithmetic_eq (f : Byte → Byte → Bool → AluResult) {m : Operand} (himp : m.mode ≠ .imp) (s : State) :
    ∃ v, operandValue m s = some v ∧ arithmetic f m s = .next (((s.setReg .a (f s.a v (s.flag .c)).value).setP
      (aluFlags (f s.a v (s.flag .c)) s.p)).advance (operandLength m)) := by
  obtain ⟨v, hv⟩ := operandValue_some himp s
  exact ⟨v, hv, withValue_eq hv _⟩

theorem getFlag_aluFlags_carry (r : AluResult) (p : Byte) : getFlag (aluFlags r p) .c = r.carry := by
  simp [getFlag_aluFlags]

theorem getFlag_aluFlags_overflow (r : AluResult) (p : Byte) : getFlag (aluFlags r p) .v = r.overflow := by
  simp [getFlag_aluFlags]

/-- `aluFlags` keeps every flag but C, Z, V and N. -/
theorem getFlag_aluFlags_of_not_mem (r : AluResult) (p : Byte) {f : Flag} (h : f ∉ [Flag.c, .z, .v, .n]) :
    getFlag (aluFlags r p) f = getFlag p f := by
  obtain ⟨hc, hz, hv, hn⟩ : f ≠ .c ∧ f ≠ .z ∧ f ≠ .v ∧ f ≠ .n := by simpa using h
  rw [getFlag_aluFlags, if_neg hn, if_neg hz, if_neg hv, if_neg hc]

/-- A sum of two bytes and a carry has the sign that neither has exactly when it leaves the signed range (R179). -/
theorem add_overflow_iff {a m r : Byte} {c : Bool} (sum : r.toNat = (a.toNat + m.toNat + c.toNat) % 256) :
    (a.getLsbD 7 == m.getLsbD 7 && r.getLsbD 7 != a.getLsbD 7) = true ↔
      a.toInt + m.toInt + c.toNat < -128 ∨ 127 < a.toInt + m.toInt + c.toNat := by
  have := a.isLt
  have := m.isLt
  have := c.toNat_le
  simp only [toInt_eq, bit_seven, sum]
  by_cases ha : 128 ≤ a.toNat <;> by_cases hm : 128 ≤ m.toNat <;> simp [ha, hm] <;> omega

/-- A difference with borrow has a sign of its own exactly when it leaves the signed range (R179). -/
theorem sub_overflow_iff {a m r : Byte} {c : Bool}
    (difference : (r.toNat : Int) = ((a.toNat : Int) - m.toNat - (1 - c.toNat)) % 256) :
    (a.getLsbD 7 != m.getLsbD 7 && r.getLsbD 7 != a.getLsbD 7) = true ↔
      a.toInt - m.toInt - (1 - c.toNat) < -128 ∨ 127 < a.toInt - m.toInt - (1 - c.toNat) := by
  have := a.isLt
  have := m.isLt
  have := c.toNat_le
  simp only [toInt_eq, bit_seven]
  by_cases ha : 128 ≤ a.toNat <;> by_cases hm : 128 ≤ m.toNat <;> simp [ha, hm] <;> omega

end Machine

namespace Proofs

open Machine Claims

/-- What an instruction whose operation is `arithmetic f` does, in every mode but Implied: D is not read. -/
theorem exec_arithmetic {i : Instr} {s : State} {f : Byte → Byte → Bool → AluResult}
    (hexec : exec i s = arithmetic f i.operand s) (himp : i.operand.mode ≠ .imp) :
    ∃ m t, operandValue i.operand s = some m ∧ exec i s = .next t ∧ t.a = (f s.a m (s.flag .c)).value ∧
      t.flag .c = (f s.a m (s.flag .c)).carry ∧ t.flag .v = (f s.a m (s.flag .c)).overflow ∧ ZeroNegativeOf t.a t ∧
      Advanced i s t ∧ ChangesOnly [.a] [.c, .z, .v, .n] [] s t := by
  obtain ⟨m, hm, harith⟩ := arithmetic_eq f himp s
  exact ⟨m, _, hm, hexec.trans harith, rfl, getFlag_aluFlags_carry _ _, getFlag_aluFlags_overflow _ _,
    zeroNegativeOf_of_p rfl, rfl,
    changesOnly_setReg_setP_advance .a _ _ fun g hg => getFlag_aluFlags_of_not_mem _ _ hg⟩

/-- Settles O9: ADC is `arithmetic` of `addWithCarry`. -/
theorem adcAddsOperandAndCarry : Obligations.AdcAddsOperandAndCarry := by
  intro i s hadc
  have hexec : exec i s = arithmetic addWithCarry i.operand s := by rw [exec_eq_operation, hadc]; rfl
  obtain ⟨m, t, hm, ht, ha, hc, hv, rest⟩ := exec_arithmetic hexec (mode_ne hadc (by decide))
  refine ⟨m, t, hm, ht, ?sum, ?carry, ?overflow, rest⟩
  case sum => rw [ha, addWithCarry_value]
  case carry => rw [hc, addWithCarry_carry]
  case overflow => rw [hv, ha, addWithCarry_overflow]

/-- Settles O10: SBC is `arithmetic` of `subtractWithBorrow`. -/
theorem sbcSubtractsOperandAndBorrow : Obligations.SbcSubtractsOperandAndBorrow := by
  intro i s hsbc
  have hexec : exec i s = arithmetic subtractWithBorrow i.operand s := by rw [exec_eq_operation, hsbc]; rfl
  obtain ⟨m, t, hm, ht, ha, hc, hv, rest⟩ := exec_arithmetic hexec (mode_ne hsbc (by decide))
  refine ⟨m, t, hm, ht, ?difference, ?carry, ?overflow, rest⟩
  case difference => rw [ha, subtractWithBorrow_value]
  case carry => rw [hc, subtractWithBorrow_carry]
  case overflow => rw [hv, ha, subtractWithBorrow_overflow]

/-- An instruction has one operand byte and one next state. -/
theorem operand_and_next_unique {i : Instr} {s t t' : State} {m m' : Byte} (hm : operandValue i.operand s = some m)
    (ht : exec i s = .next t) (hm' : operandValue i.operand s = some m') (ht' : exec i s = .next t') :
    m' = m ∧ t' = t := by
  rw [hm] at hm'
  rw [ht] at ht'
  cases hm'
  cases ht'
  exact ⟨rfl, rfl⟩

/-- Settles O11: the sign test for V in O9 and O10 is the test of the signed range. -/
theorem overflowIsSignedOverflow : Obligations.OverflowIsSignedOverflow := by
  intro i m s t hm ht
  constructor
  · intro hadc
    obtain ⟨m', t', hm', ht', sum, -, hv, -⟩ := adcAddsOperandAndCarry i s hadc
    obtain ⟨rfl, rfl⟩ := operand_and_next_unique hm ht hm' ht'
    rw [hv]
    exact add_overflow_iff sum
  · intro hsbc
    obtain ⟨m', t', hm', ht', difference, -, hv, -⟩ := sbcSubtractsOperandAndBorrow i s hsbc
    obtain ⟨rfl, rfl⟩ := operand_and_next_unique hm ht hm' ht'
    rw [hv]
    exact sub_overflow_iff difference

end Proofs

end Sys2Proof
end

section
/-! PROOFS. Shifts (spec 44_shift_rotate.md R191, R192) and the nine-bit rotation of A and C (R193, R194). -/

namespace Sys2Proof

namespace Machine

/-- ROL of a byte and the carry beside it. -/
def rotateLeft (x : Byte × Bool) : Byte × Bool := ((shiftLeft x.1 x.2).value, (shiftLeft x.1 x.2).carry)

/-- ROR of a byte and the carry beside it. -/
def rotateRight (x : Byte × Bool) : Byte × Bool := ((shiftRight x.1 x.2).value, (shiftRight x.1 x.2).carry)

/-- Bit `k` of the nine-bit register that a byte and the carry above it make. -/
def bitOfNine (x : Byte × Bool) (k : Nat) : Bool := if k = 8 then x.2 else x.1.getLsbD k

theorem eq_of_bitOfNine {x y : Byte × Bool} (h : ∀ k < 9, bitOfNine x k = bitOfNine y k) : x = y := by
  refine Prod.ext (BitVec.eq_of_getLsbD_eq fun k hk => ?_) (h 8 (by decide))
  have := h k (by omega)
  rwa [bitOfNine, bitOfNine, if_neg (by omega), if_neg (by omega)] at this

/-- ROL moves each of the nine bits one place up, the top one to the bottom. -/
theorem bitOfNine_rotateLeft (x : Byte × Bool) {k : Nat} (hk : k < 9) :
    bitOfNine (rotateLeft x) ((k + 1) % 9) = bitOfNine x k := by
  obtain ⟨m, c⟩ := x
  cases c <;> interval_cases k <;> simp [bitOfNine, rotateLeft, shiftLeft]

theorem bitOfNine_rotateLeft_iterate (x : Byte × Bool) (n : Nat) {k : Nat} (hk : k < 9) :
    bitOfNine (rotateLeft^[n] x) ((k + n) % 9) = bitOfNine x k := by
  induction n with
  | zero => rw [Nat.add_zero, Nat.mod_eq_of_lt hk, Function.iterate_zero_apply]
  | succ n ih =>
    have up := bitOfNine_rotateLeft (rotateLeft^[n] x) (Nat.mod_lt (k + n) (by decide))
    rw [Nat.mod_add_mod, Nat.add_assoc] at up
    rw [Function.iterate_succ_apply', up, ih]

/-- Nine places are once around. -/
theorem rotateLeft_nine (x : Byte × Bool) : rotateLeft^[9] x = x := by
  refine eq_of_bitOfNine fun k hk => ?_
  have around := bitOfNine_rotateLeft_iterate x 9 hk
  rwa [Nat.add_mod_right, Nat.mod_eq_of_lt hk] at around

/-- ROR moves each of the nine bits one place down, the bottom one to the top. -/
theorem bitOfNine_rotateRight (x : Byte × Bool) {k : Nat} (hk : k < 9) :
    bitOfNine (rotateRight x) k = bitOfNine x ((k + 1) % 9) := by
  obtain ⟨m, c⟩ := x
  cases c <;> interval_cases k <;> simp [bitOfNine, rotateRight, shiftRight]

/-- ROR undoes ROL. -/
theorem rotateRight_rotateLeft : Function.LeftInverse rotateRight rotateLeft := fun x =>
  eq_of_bitOfNine fun k hk => by rw [bitOfNine_rotateRight _ hk, bitOfNine_rotateLeft x hk]

theorem rotateRight_nine (x : Byte × Bool) : rotateRight^[9] x = x := by
  calc rotateRight^[9] x = rotateRight^[9] (rotateLeft^[9] x) := by rw [rotateLeft_nine]
    _ = x := rotateRight_rotateLeft.iterate 9 x

end Machine

namespace Proofs

open Machine Claims

/-- Settles O15: ASL is `shiftOperand` to the left and LSR to the right, each with a zero coming in. -/
theorem shiftMovesZeroIn : Obligations.ShiftMovesZeroIn := by
  rintro i s (hasl | hlsr)
  · have hexec : exec i s = shiftOperand (shiftLeft · false) i.operand s := by
      rw [exec_eq_operation, hasl]
      rfl
    obtain ⟨m, t, hm, ht, carry, rest⟩ := exec_shiftOperand hexec (mode_ne hasl (by decide)) (mode_ne hasl (by decide))
    exact ⟨m, _, t, hm, ht, fun _ => ⟨shiftLeft_value m false, carry⟩,
      fun hlsr => absurd (hasl.symm.trans hlsr) (by decide), rest⟩
  · have hexec : exec i s = shiftOperand (shiftRight · false) i.operand s := by
      rw [exec_eq_operation, hlsr]
      rfl
    obtain ⟨m, t, hm, ht, carry, zn, rest⟩ :=
      exec_shiftOperand hexec (mode_ne hlsr (by decide)) (mode_ne hlsr (by decide))
    have half : (shiftRight m false).value.toNat = m.toNat / 2 := shiftRight_value m false
    have positive : t.flag .n = false := by
      rw [zn.2, bit_seven, half, decide_eq_false_iff_not]
      have := m.isLt
      omega
    exact ⟨m, _, t, hm, ht, fun hasl => absurd (hlsr.symm.trans hasl) (by decide), fun _ => ⟨half, carry, positive⟩,
      zn, rest⟩

/-- The nine-bit register of R193 and R194. -/
def accumulatorCarry (s : State) : Byte × Bool := (s.a, s.flag .c)

/-- Repeating an instruction that always completes iterates what it does to A and C. -/
theorem repeatExec_accumulatorCarry {i : Instr} {f : Byte × Bool → Byte × Bool}
    (once : ∀ s, ∃ t, exec i s = .next t ∧ accumulatorCarry t = f (accumulatorCarry s)) (k : Nat) (s : State) :
    ∃ t, repeatExec i k s = .next t ∧ accumulatorCarry t = f^[k] (accumulatorCarry s) := by
  induction k generalizing s with
  | zero => exact ⟨s, rfl, rfl⟩
  | succ k ih =>
    obtain ⟨t, ht, rotated⟩ := once s
    obtain ⟨u, hu, more⟩ := ih t
    refine ⟨u, ?_, ?_⟩
    · rw [repeatExec, ht]
      exact hu
    · rw [more, rotated, Function.iterate_succ_apply]

theorem execRol_accumulatorCarry (s : State) :
    ∃ t, exec .rolAcc s = .next t ∧ accumulatorCarry t = rotateLeft (accumulatorCarry s) := by
  have hexec : exec .rolAcc s = shiftOperand (shiftLeft · (s.flag .c)) .acc s := exec_eq_operation .rolAcc s
  exact ⟨_, hexec.trans (shiftOperand_acc _ s), Prod.ext rfl (getFlag_shiftFlags_carry _ _)⟩

theorem execRor_accumulatorCarry (s : State) :
    ∃ t, exec .rorAcc s = .next t ∧ accumulatorCarry t = rotateRight (accumulatorCarry s) := by
  have hexec : exec .rorAcc s = shiftOperand (shiftRight · (s.flag .c)) .acc s := exec_eq_operation .rorAcc s
  exact ⟨_, hexec.trans (shiftOperand_acc _ s), Prod.ext rfl (getFlag_shiftFlags_carry _ _)⟩

/-- Settles O16: nine rotations of the nine-bit register are once around. -/
theorem nineRotationsRestore : Obligations.NineRotationsRestore := by
  rintro i s (rfl | rfl)
  · obtain ⟨t, ht, around⟩ := repeatExec_accumulatorCarry execRol_accumulatorCarry 9 s
    obtain ⟨ha, hc⟩ := Prod.ext_iff.mp (around.trans (rotateLeft_nine _))
    exact ⟨t, ht, ha, hc⟩
  · obtain ⟨t, ht, around⟩ := repeatExec_accumulatorCarry execRor_accumulatorCarry 9 s
    obtain ⟨ha, hc⟩ := Prod.ext_iff.mp (around.trans (rotateRight_nine _))
    exact ⟨t, ht, ha, hc⟩

end Proofs

end Sys2Proof
end

section
/-! PROOFS. PHP and PLP (spec 45_stack.md R204, R206), and what a pull finds after a push (R201). -/

namespace Sys2Proof

namespace Machine.State

/-- A pull from the state after a push finds the pushed byte (R201). -/
theorem pullByte_push (s : State) (v : Byte) : (s.push v).pullByte = v := by
  rw [pullByte_eq, push_sp, BitVec.sub_add_cancel, push_read, stackTop_eq, read_write_same]

/-- A pull after a push restores SP, the wrap included (R201). -/
theorem pulled_push_sp (s : State) (v : Byte) : (s.push v).pulled.sp = s.sp := BitVec.sub_add_cancel s.sp 1

/-- Where PC goes plays no part in a pull. -/
@[simp] theorem pullByte_advance (s : State) (len : Nat) : (s.advance len).pullByte = s.pullByte := rfl

end Machine.State

namespace Proofs

open Machine Claims

/-- The frame of a new P: every flag may change, nothing else does. -/
theorem changesOnly_setP (s : State) (p : Byte) :
    ChangesOnly [] [.c, .z, .i, .d, .b, .u, .v, .n] [] s (s.setP p) where
  registers r _ := s.setP_reg p r
  flags f hf := absurd (by cases f <;> decide) hf
  memory w _ := s.setP_read p w

/-- Settles O19: PHP is a push of P; PLP is a pull whose byte becomes P. -/
theorem phpPlpMoveWholeStatus : Obligations.PhpPlpMoveWholeStatus := by
  intro s
  have pushFrame := (changesOnly_push s s.p).trans (changesOnly_setPc (s.push s.p) (s.pc + 1))
  have pullFrame := ((changesOnly_pulled s).trans (changesOnly_setP s.pulled s.pullByte)).trans
    (changesOnly_setPc (s.pulled.setP s.pullByte) (s.pc + 1))
  exact ⟨⟨(s.push s.p).advance 1, exec_eq_operation .php s, push_read_stackCell s s.p, s.push_sp s.p, rfl, pushFrame⟩,
    (s.pulled.setP s.pullByte).advance 1, exec_eq_operation .plp s, s.pulled_sp, pullByte_eq_read_stackCell s, rfl,
    pullFrame⟩

/-- Settles O20: the pull finds the byte just pushed and restores SP. -/
theorem pushThenPullRestores : Obligations.PushThenPullRestores := by
  intro s
  exact ⟨⟨_, _, exec_eq_operation .php s, exec_eq_operation .plp _, s.pullByte_push s.p, s.pulled_push_sp s.p⟩,
    _, _, exec_eq_operation .pha s, exec_eq_operation .pla _, s.pullByte_push s.a, s.pulled_push_sp s.a⟩

end Proofs

end Sys2Proof
end

section
/-! PROOFS. Calls, the software interrupt and the returns from them (spec 46_control.md R211 to R213, R223,
60_exceptions.md R253 to R255). -/

namespace Sys2Proof

namespace Machine

/-- The address after the second byte of an instruction, in numbers. -/
theorem pc_add_two_toNat (s : State) : (s.pc + 2).toNat = (s.pc.toNat + 2) % 65536 := by
  rw [BitVec.toNat_add]
  rfl

theorem hi_pc_add_two_toNat (s : State) : (hi (s.pc + 2)).toNat = ((s.pc.toNat + 2) % 65536) / 256 := by
  rw [hi_toNat, pc_add_two_toNat]

theorem lo_pc_add_two_toNat (s : State) : (lo (s.pc + 2)).toNat = (s.pc.toNat + 2) % 256 := by
  rw [lo_toNat, pc_add_two_toNat]
  omega

/-- SP goes down, and up, one at a time. -/
theorem sub_one_sub_one (b : Byte) : b - 1 - 1 = b - 2 := by
  rw [BitVec.sub_sub]
  rfl

theorem sub_one_sub_one_sub_one (b : Byte) : b - 1 - 1 - 1 = b - 3 := by
  rw [BitVec.sub_sub, BitVec.sub_sub]
  rfl

theorem add_one_add_one (b : Byte) : b + 1 + 1 = b + 2 := BitVec.add_assoc b 1 1

theorem add_one_add_one_add_one (b : Byte) : b + 1 + 1 + 1 = b + 3 := by
  rw [BitVec.add_assoc, BitVec.add_assoc]
  rfl

end Machine

namespace Proofs

open Machine Claims

theorem stackCell_inj {a b : Byte} : stackCell a = stackCell b ↔ a = b := by
  rw [← stackAt_eq_stackCell, ← stackAt_eq_stackCell, stackAt_inj]

/-- Memory after a pushed word, by the cells the statements name (R202). -/
theorem pushWord_read_stackCell (s : State) (w a : Word) :
    (s.pushWord w).read a =
      if a = stackCell (s.sp - 1) then lo w else if a = stackCell s.sp then hi w else s.read a := by
  rw [State.pushWord_read, stackAt_eq_stackCell, stackAt_eq_stackCell]

theorem pushWord_read_low (s : State) (w : Word) : (s.pushWord w).read (stackCell (s.sp - 1)) = lo w := by
  rw [pushWord_read_stackCell, if_pos rfl]

theorem pushWord_read_high (s : State) (w : Word) : (s.pushWord w).read (stackCell s.sp) = hi w := by
  have apart : s.sp ≠ s.sp - 1 := by bv_omega
  rw [pushWord_read_stackCell, if_neg (mt stackCell_inj.mp apart), if_pos rfl]

/-- The frame of a pushed word: SP and the two cells below it. -/
theorem changesOnly_pushWord (s : State) (w : Word) :
    ChangesOnly [.sp] [] [stackCell s.sp, stackCell (s.sp - 1)] s (s.pushWord w) := by
  have frame := (changesOnly_push s (hi w)).trans (changesOnly_push (s.push (hi w)) (lo w))
  exact ⟨fun r hr => frame.registers r (by simpa using hr), frame.flags, fun a ha => frame.memory a
    (by simpa [or_comm] using ha)⟩

/-- All JSR does (R211). -/
theorem exec_jsr (w : Word) (s : State) : exec (.jsr w) s = .next ((s.pushWord (s.pc + 2)).setPc w) :=
  exec_eq_operation (.jsr w) s

/-- Settles O22: JSR is a pushed word and a jump, on an operand that was read before the pushes. -/
theorem jsrPushesReturnAndJumps : Obligations.JsrPushesReturnAndJumps := by
  intro w s
  have frame := (changesOnly_pushWord s (s.pc + 2)).trans (changesOnly_setPc (s.pushWord (s.pc + 2)) w)
  refine ⟨_, exec_jsr w s, rfl, ?high, ?low, sub_one_sub_one s.sp, frame, fun rest h => ?step⟩
  case high => rw [State.setPc_read, pushWord_read_high, hi_pc_add_two_toNat]
  case low => rw [State.setPc_read, pushWord_read_low, lo_pc_add_two_toNat]
  case step => rw [step_of_decode h, exec_jsr]

/-- Two pulls read the two cells above SP, low byte first (R202). -/
theorem pullWord_eq_stackCell (s : State) :
    s.pullWord = word (s.read (stackCell (s.sp + 1))) (s.read (stackCell (s.sp + 2))) := by
  rw [State.pullWord_eq, add_one_add_one, stackAt_eq_stackCell, stackAt_eq_stackCell]

/-- All RTS does (R212). -/
theorem exec_rts (s : State) : exec .rts s = .next (s.pulledWord.setPc (s.pullWord + 1)) := exec_eq_operation .rts s

/-- Settles O23: RTS is a pulled word and a jump one past it. -/
theorem rtsPullsReturnPlusOne : Obligations.RtsPullsReturnPlusOne := by
  intro s
  have frame := ((changesOnly_pulled s).trans (changesOnly_pulled s.pulled)).trans
    (changesOnly_setPc s.pulledWord (s.pullWord + 1))
  refine ⟨_, exec_rts s, add_one_add_one s.sp, ?pc, fun r hr => frame.registers r (by simpa using hr), frame.flags,
    frame.memory⟩
  rw [State.setPc_pc, BitVec.toNat_add, pullWord_eq_stackCell, word_toNat]
  rfl

/-- Settles O24: the pulled word is the pushed one, and RTS adds one to it. -/
theorem jsrRtsRoundTrip : Obligations.JsrRtsRoundTrip := by
  intro w s t u ht hsp high low
  rw [exec_jsr] at ht
  cases ht
  have hsp : u.sp = s.sp - 2 := hsp.trans (sub_one_sub_one s.sp)
  have lowCell : u.sp + 1 = s.sp - 1 := by rw [hsp]; bv_omega
  have highCell : u.sp + 2 = s.sp := by rw [hsp]; bv_omega
  rw [State.setPc_read, pushWord_read_high] at high
  rw [State.setPc_read, pushWord_read_low] at low
  have returned : u.pullWord = s.pc + 2 := by
    rw [pullWord_eq_stackCell, lowCell, highCell, low, high, word_lo_hi]
  refine ⟨_, exec_rts u, ?_, (add_one_add_one u.sp).trans highCell⟩
  rw [State.setPc_pc, returned, BitVec.add_assoc]
  rfl

/-- The frame of RTI: SP and P. -/
theorem changesOnly_interruptReturn (s : State) :
    ChangesOnly [.sp] [.c, .z, .i, .d, .b, .u, .v, .n] [] s s.interruptReturn := by
  have restored := (changesOnly_pulled s).trans (changesOnly_setP s.pulled s.pullByte)
  have pulled := (restored.trans (changesOnly_pulled _)).trans (changesOnly_pulled _)
  have frame := pulled.trans (changesOnly_setPc _ (s.pulled.setP s.pullByte).pullWord)
  exact ⟨fun r hr => frame.registers r (by simpa using hr), frame.flags, frame.memory⟩

/-- Settles O25: RTI pulls P and then PC. -/
theorem rtiRestoresStatusAndPc : Obligations.RtiRestoresStatusAndPc := by
  intro s
  refine ⟨s.interruptReturn, exec_eq_operation .rti s, ?sp, ?p, ?pc, changesOnly_interruptReturn s⟩
  case sp => rw [State.interruptReturn_sp, add_one_add_one_add_one]
  case p => rw [State.interruptReturn_p, stackAt_eq_stackCell]
  case pc =>
    rw [State.interruptReturn_pc, word_toNat, add_one_add_one_add_one, add_one_add_one, stackAt_eq_stackCell,
      stackAt_eq_stackCell]

/-- The P that BRK pushes has bits 4 and 2 set (R223). -/
theorem brkStatus_eq (s : State) : s.brkStatus = s.p ||| 0x14 := by
  show s.p ||| 0x10 ||| 0x04 = s.p ||| 0x14
  rw [BitVec.or_assoc]
  rfl

/-- Memory after BRK, by the cells the statements name (R253). -/
theorem softwareInterrupt_read_stackCell (s : State) (a : Word) :
    s.softwareInterrupt.read a =
      if a = stackCell (s.sp - 2) then s.p ||| 0x14 else if a = stackCell (s.sp - 1) then lo (s.pc + 2)
      else if a = stackCell s.sp then hi (s.pc + 2) else s.read a := by
  rw [State.softwareInterrupt_read, sub_one_sub_one, brkStatus_eq, stackAt_eq_stackCell, stackAt_eq_stackCell,
    stackAt_eq_stackCell]

theorem softwareInterrupt_read_status (s : State) : s.softwareInterrupt.read (stackCell (s.sp - 2)) = s.p ||| 0x14 := by
  rw [softwareInterrupt_read_stackCell, if_pos rfl]

theorem softwareInterrupt_read_low (s : State) : s.softwareInterrupt.read (stackCell (s.sp - 1)) = lo (s.pc + 2) := by
  have apart : s.sp - 1 ≠ s.sp - 2 := by bv_omega
  rw [softwareInterrupt_read_stackCell, if_neg (mt stackCell_inj.mp apart), if_pos rfl]

theorem softwareInterrupt_read_high (s : State) : s.softwareInterrupt.read (stackCell s.sp) = hi (s.pc + 2) := by
  have apart₁ : s.sp ≠ s.sp - 1 := by bv_omega
  have apart₂ : s.sp ≠ s.sp - 2 := by bv_omega
  rw [softwareInterrupt_read_stackCell, if_neg (mt stackCell_inj.mp apart₂), if_neg (mt stackCell_inj.mp apart₁),
    if_pos rfl]

/-- A flag after BRK: B clear, I set, the others as before (R253). -/
theorem softwareInterrupt_flag (s : State) (f : Flag) :
    s.softwareInterrupt.flag f = if f = .b then false else if f = .i then true else s.flag f := by
  rw [State.flag, State.softwareInterrupt_p, getFlag_setFlag, State.brkStatus, getFlag_setFlag, getFlag_setFlag]
  split
  · rfl
  · rfl

/-- The frame of BRK: SP, I, B and the three cells below SP. -/
theorem changesOnly_softwareInterrupt (s : State) :
    ChangesOnly [.sp] [.i, .b] [stackCell s.sp, stackCell (s.sp - 1), stackCell (s.sp - 2)] s s.softwareInterrupt where
  registers r hr := by
    cases r with
    | a => exact s.softwareInterrupt_a
    | x => exact s.softwareInterrupt_x
    | y => exact s.softwareInterrupt_y
    | sp => exact absurd (List.mem_singleton_self _) hr
  flags f hf := by
    obtain ⟨hi, hb⟩ : f ≠ .i ∧ f ≠ .b := by simpa using hf
    rw [softwareInterrupt_flag, if_neg hb, if_neg hi]
  memory w hw := by
    obtain ⟨high, low, status⟩ : w ≠ stackCell s.sp ∧ w ≠ stackCell (s.sp - 1) ∧ w ≠ stackCell (s.sp - 2) := by
      simpa using hw
    rw [softwareInterrupt_read_stackCell, if_neg status, if_neg low, if_neg high]

/-- Settles O26: BRK is the software interrupt. -/
theorem brkSavesStateAndEntersVector : Obligations.BrkSavesStateAndEntersVector := by
  intro s
  refine ⟨s.softwareInterrupt, exec_eq_operation .brk s, ?high, ?low, softwareInterrupt_read_status s, ?sp,
    softwareInterrupt_flag s .i, softwareInterrupt_flag s .b, ?pc, changesOnly_softwareInterrupt s⟩
  case high => rw [softwareInterrupt_read_high, hi_pc_add_two_toNat]
  case low => rw [softwareInterrupt_read_low, lo_pc_add_two_toNat]
  case sp => rw [State.softwareInterrupt_sp, sub_one_sub_one_sub_one]
  case pc =>
    rw [State.softwareInterrupt_pc, State.brkTarget, word_toNat]
    rfl

/-- Settles O27: RTI pulls the three bytes BRK pushed. -/
theorem brkRtiRoundTrip : Obligations.BrkRtiRoundTrip := by
  intro s t u ht hsp high low status
  obtain rfl : s.softwareInterrupt = t := by
    rw [exec_eq_operation] at ht
    cases ht
    rfl
  rw [State.softwareInterrupt_sp, sub_one_sub_one_sub_one] at hsp
  have statusCell : u.sp + 1 = s.sp - 2 := by rw [hsp]; bv_omega
  have lowCell : u.sp + 1 + 1 = s.sp - 1 := by rw [hsp]; bv_omega
  have highCell : u.sp + 1 + 1 + 1 = s.sp := by rw [hsp]; bv_omega
  rw [softwareInterrupt_read_high] at high
  rw [softwareInterrupt_read_low] at low
  rw [softwareInterrupt_read_status] at status
  refine ⟨u.interruptReturn, exec_eq_operation .rti u, ?target, u.interruptReturn_sp.trans highCell, ?restored⟩
  case target =>
    rw [State.interruptReturn_pc, highCell, lowCell, stackAt_eq_stackCell, stackAt_eq_stackCell, low, high, word_lo_hi]
  case restored => rw [State.interruptReturn_p, statusCell, stackAt_eq_stackCell, status]

end Proofs

end Sys2Proof
end

section
/-! PROOFS. The branches (spec 46_control.md R214 to R222): PC alone changes, by the excess-128 offset if the flag has
the value of the mnemonic. -/

namespace Sys2Proof

namespace Machine

/-- The offset of a branch is taken from P0 + 2, modulo 65536 (R214). -/
theorem pc_add_two_add_relOffset (pc : Word) (o : Byte) :
    pc + 2 + relOffset o = BitVec.ofInt 16 (pc.toNat + 2 + ((o.toNat : Int) - 128)) := by
  rw [relOffset_eq, BitVec.ofInt_add, BitVec.ofInt_add, BitVec.ofInt_natCast, BitVec.ofNat_toNat, BitVec.setWidth_eq]
  rfl

end Machine

namespace Proofs

open Machine Claims

/-- All `branch` does on a relative operand (R214). -/
theorem branch_rel (f : Flag) (on : Bool) (o : Byte) (s : State) :
    ∃ t, branch f on (.rel o) s = .next t ∧
      (s.flag f = on → t.pc = BitVec.ofInt 16 (s.pc.toNat + 2 + ((o.toNat : Int) - 128))) ∧
      (s.flag f ≠ on → t.pc = s.pc + 2) ∧ ChangesOnly [] [] [] s t := by
  by_cases taken : s.flag f = on
  · refine ⟨s.setPc (s.pc + 2 + relOffset o), ?_, fun _ => ?_, fun h => absurd taken h, changesOnly_setPc s _⟩
    · rw [branch, withOffset_rel, if_pos taken]
    · rw [State.setPc_pc, pc_add_two_add_relOffset]
  · refine ⟨s.setPc (s.pc + 2), ?_, fun h => absurd h taken, fun _ => rfl, changesOnly_setPc s _⟩
    rw [branch, withOffset_rel, if_neg taken]

/-- Each of the eight branches is `branch` on its row of R215 to R222. -/
theorem exec_eq_branch {i : Instr} {f : Flag} {on : Bool} (h : (i.mnemonic, f, on) ∈ branchConditions) (s : State) :
    exec i s = branch f on i.operand s := by
  rw [exec_eq_operation]
  simp only [branchConditions, List.mem_cons, List.not_mem_nil, or_false, Prod.mk.injEq] at h
  obtain ⟨hi, rfl, rfl⟩ | ⟨hi, rfl, rfl⟩ | ⟨hi, rfl, rfl⟩ | ⟨hi, rfl, rfl⟩ | ⟨hi, rfl, rfl⟩ | ⟨hi, rfl, rfl⟩ |
    ⟨hi, rfl, rfl⟩ | ⟨hi, rfl, rfl⟩ := h <;> rw [hi] <;> rfl

/-- Settles O29: each of the eight is `branch` on its flag and value. -/
theorem branchesTestTheirFlag : Obligations.BranchesTestTheirFlag := by
  intro i f on o s h operand
  rw [exec_eq_branch h, operand]
  exact branch_rel f on o s

/-- Settles O28: the row of BEQ in O29. -/
theorem beqBranchesOnZero : Obligations.BeqBranchesOnZero := by
  intro o s
  have row : (Mnemonic.beq, Flag.z, true) ∈ branchConditions := by decide
  obtain ⟨t, ht, taken, fallthrough, frame⟩ := branchesTestTheirFlag (.beq o) .z true o s row rfl
  exact ⟨t, ht, taken, fun clear => fallthrough (by simp [clear]), frame⟩

end Proofs

end Sys2Proof
end

section
/-! PROOFS. Every instruction completes, and what it leaves alone: the flags, registers and cells that no rule of it
writes (spec 10_state.md R21 to R25, R35, 40_step_and_addressing.md R116, R118). -/

namespace Sys2Proof

namespace Machine

theorem eq_rel_of_mode : ∀ {m : Operand}, m.mode = .rel → ∃ o, m = .rel o
  | .rel o, _ => ⟨o, rfl⟩

/-- An instruction whose mnemonic has no mode but Relative has an offset byte. -/
theorem operand_eq_rel {i : Instr} {n : Mnemonic} (h : i.mnemonic = n) (hn : n.modes = [.rel]) :
    ∃ o, i.operand = .rel o := eq_rel_of_mode (by simpa [h, hn] using mode_mem_modes i)

/-- `setZN` keeps every flag but Z and N. -/
theorem getFlag_setZN_of_not_mem (v p : Byte) {f : Flag} (h : f ∉ [Flag.z, .n]) :
    getFlag (setZN v p) f = getFlag p f := by
  obtain ⟨hz, hn⟩ : f ≠ .z ∧ f ≠ .n := by simpa using h
  rw [getFlag_setZN, if_neg hn, if_neg hz]

/-- `setFlag` keeps every other flag. -/
theorem getFlag_setFlag_of_not_mem (p : Byte) (on : Bool) {f g : Flag} (h : g ∉ [f]) :
    getFlag (setFlag p f on) g = getFlag p g := getFlag_setFlag_ne p on (List.ne_of_not_mem_cons h)

end Machine

namespace Proofs

open Machine Claims

/-- The cells an instruction may write: the resolved address, or those below SP. -/
def writtenCells (i : Instr) (s : State) : List Word :=
  match i.mnemonic with
  | .sta | .stx | .sty | .inc | .dec | .asl | .lsr | .rol | .ror => (resolve i.operand s).address.toList
  | .pha | .php => [stackCell s.sp]
  | .jsr => [stackCell s.sp, stackCell (s.sp - 1)]
  | .brk => [stackCell s.sp, stackCell (s.sp - 1), stackCell (s.sp - 2)]
  | _ => []

/-- The frame of an instruction by the lists of its writers. -/
structure KeepsUnlisted (i : Instr) (s t : State) : Prop where
  registers : ∀ r, i.mnemonic ∉ registerWriters r → t.reg r = s.reg r
  flags : ∀ f, i.mnemonic ∉ flagWriters f → t.flag f = s.flag f
  memory : ∀ w, w ∉ writtenCells i s → t.read w = s.read w

/-- A frame whose lists name the mnemonic as a writer: `decide` finds it among the writers of each register and flag.
Only a frame that lists a cell has to say why. -/
theorem KeepsUnlisted.of_changesOnly {i : Instr} {n : Mnemonic} {s t : State} {regs : List Reg} {flags : List Flag}
    {cells : List Word} (hi : i.mnemonic = n) (frame : ChangesOnly regs flags cells s t)
    (hregs : ∀ r ∈ regs, n ∈ registerWriters r := by decide) (hflags : ∀ f ∈ flags, n ∈ flagWriters f := by decide)
    (hcells : cells ⊆ writtenCells i s := by exact List.nil_subset _) : KeepsUnlisted i s t where
  registers r hr := frame.registers r fun mem => hr (hi ▸ hregs r mem)
  flags f hf := frame.flags f fun mem => hf (hi ▸ hflags f mem)
  memory w hw := frame.memory w fun mem => hw (hcells mem)

/-- What an instruction leaves alone: one frame per operation, and the lists name its mnemonic. -/
theorem exec_keepsUnlisted {i : Instr} {s t : State} (h : exec i s = .next t) : KeepsUnlisted i s t := by
  rw [exec_eq_operation] at h
  cases hi : i.mnemonic <;> rw [hi] at h
  case lda | ldx | ldy =>
    obtain ⟨v, -, rfl⟩ := withValue_next h
    exact .of_changesOnly hi (changesOnly_setReg_zn_advance s _ v v _)
  case and | ora | eor =>
    obtain ⟨v, -, rfl⟩ := withValue_next h
    exact .of_changesOnly hi (changesOnly_setReg_zn_advance s .a _ _ _)
  case bit =>
    obtain ⟨v, -, rfl⟩ := withValue_next h
    exact .of_changesOnly hi (changesOnly_setP_advance _ fun f => getFlag_bitTestFlags_of_not_mem _ _ _)
  case cmp | cpx | cpy =>
    obtain ⟨v, -, rfl⟩ := withValue_next h
    exact .of_changesOnly hi (changesOnly_setP_advance _ fun f => getFlag_compareFlags_of_not_mem _ _ _)
  case adc | sbc =>
    obtain ⟨v, -, rfl⟩ := withValue_next h
    exact .of_changesOnly hi (changesOnly_setReg_setP_advance .a _ _ fun f => getFlag_aluFlags_of_not_mem _ _)
  case sta | stx | sty =>
    obtain ⟨w, hw, rfl⟩ := withAddress_next h
    exact .of_changesOnly hi (changesOnly_write_advance s w _ _) (hcells := by simp [writtenCells, hi, hw])
  case inc | dec =>
    obtain ⟨hacc, -⟩ | ⟨-, w, hw, rfl⟩ := modifyOperand_next h
    · exact absurd (congrArg Operand.mode hacc) (mode_ne hi (by decide))
    · exact .of_changesOnly hi (changesOnly_write_setP_advance w _ _ fun f => getFlag_setZN_of_not_mem _ _)
        (hcells := by simp [writtenCells, hi, hw])
  case asl | lsr | rol | ror =>
    obtain ⟨-, rfl⟩ | ⟨-, w, hw, rfl⟩ := modifyOperand_next h
    · exact .of_changesOnly hi (changesOnly_setReg_setP_advance .a _ 1 fun f => getFlag_shiftFlags_of_not_mem _ _)
    · exact .of_changesOnly hi (changesOnly_write_setP_advance w _ _ fun f => getFlag_shiftFlags_of_not_mem _ _)
        (hcells := by simp [writtenCells, hi, hw])
  case tax | tay | txa | tya | tsx | inx | iny | dex | dey =>
    cases h
    exact .of_changesOnly hi (changesOnly_setReg_zn_advance s _ _ _ 1)
  case txs =>
    cases h
    exact .of_changesOnly hi ((changesOnly_setReg s .sp s.x).trans (changesOnly_setPc _ _))
  case pha | php =>
    cases h
    exact .of_changesOnly hi ((changesOnly_push s _).trans (changesOnly_setPc _ _))
      (hcells := by simp [writtenCells, hi])
  case pla =>
    cases h
    exact .of_changesOnly hi ((changesOnly_pulled s).trans (changesOnly_setReg_zn_advance s.pulled .a _ _ 1))
  case plp =>
    cases h
    exact .of_changesOnly hi ((changesOnly_pulled s).trans
      ((changesOnly_setP s.pulled _).trans (changesOnly_setPc _ _)))
  case jmp =>
    obtain ⟨w, -, rfl⟩ := withAddress_next h
    exact .of_changesOnly hi (changesOnly_setPc s w)
  case jsr =>
    obtain ⟨w, -, rfl⟩ := withAddress_next h
    exact .of_changesOnly hi ((changesOnly_pushWord s _).trans (changesOnly_setPc _ w))
      (hcells := by simp [writtenCells, hi])
  case rts =>
    cases h
    exact .of_changesOnly hi (((changesOnly_pulled s).trans (changesOnly_pulled _)).trans (changesOnly_setPc _ _))
  case rti =>
    cases h
    exact .of_changesOnly hi (changesOnly_interruptReturn s)
  case bcc | bcs | beq | bne | bpl | bmi | bvc | bvs =>
    obtain ⟨w, rfl⟩ := branch_next h
    exact .of_changesOnly hi (changesOnly_setPc s w)
  case brk =>
    cases h
    exact .of_changesOnly hi (changesOnly_softwareInterrupt s) (hcells := by simp [writtenCells, hi])
  case nop =>
    cases h
    exact .of_changesOnly hi (changesOnly_setPc s _)
  case clc | cld | cli | clv | sec | sed | sei =>
    cases h
    exact .of_changesOnly hi (changesOnly_setP_advance 1 fun f => getFlag_setFlag_of_not_mem s.p _)

/-- Settles O34: the flags of the frame. -/
theorem onlyListedInstructionsWriteFlags : Obligations.OnlyListedInstructionsWriteFlags :=
  fun _ f _ _ h => (exec_keepsUnlisted h).flags f

/-- A shift or rotate in a memory mode writes one cell, P and PC. -/
theorem shift_memory_keeps_registers {i : Instr} {s t : State} (h : exec i s = .next t)
    (hi : i.mnemonic ∈ [Mnemonic.asl, .lsr, .rol, .ror]) (hacc : i.mode ≠ .acc) (r : Reg) : t.reg r = s.reg r := by
  obtain ⟨f, hf⟩ : ∃ f, shiftOperand f i.operand s = .next t := by
    rw [exec_eq_operation] at h
    simp only [List.mem_cons, List.not_mem_nil, or_false] at hi
    obtain hi | hi | hi | hi := hi <;> rw [hi] at h <;> exact ⟨_, h⟩
  obtain ⟨hop, -⟩ | ⟨-, w, -, rfl⟩ := modifyOperand_next hf
  · exact absurd (congrArg Operand.mode hop) hacc
  · rw [State.advance_reg, State.setP_reg, State.write_reg]

/-- Settles O35: the registers of the frame; in a memory mode a shift writes its cell instead of A. -/
theorem onlyListedInstructionsWriteRegisters : Obligations.OnlyListedInstructionsWriteRegisters :=
  fun _ r _ _ h => ⟨(exec_keepsUnlisted h).registers r, fun hi hacc => shift_memory_keeps_registers h hi hacc r⟩

/-- No cell is written by a mnemonic off the list, nor in Accumulator mode, which has no address. -/
theorem writtenCells_eq_nil {i : Instr} (s : State) (h : i.mnemonic ∉ memoryWriters ∨ i.mode = .acc) :
    writtenCells i s = [] := by
  cases hi : i.mnemonic <;> simp only [writtenCells, hi]
  case sta | stx | sty | inc | dec | asl | lsr | rol | ror =>
    have hacc : i.mode = .acc := h.resolve_left (by rw [hi]; decide)
    rw [eq_acc_of_mode hacc]
    rfl
  case pha | php | jsr | brk =>
    exact absurd (h.resolve_left (by rw [hi]; decide)) (mode_ne hi (by decide))

/-- Settles O36: the cells of the frame, of which there are none. -/
theorem onlyListedInstructionsWriteMemory : Obligations.OnlyListedInstructionsWriteMemory := by
  intro i s t h listed w
  exact (exec_keepsUnlisted h).memory w (by rw [writtenCells_eq_nil s listed]; exact List.not_mem_nil)

theorem stackCell_toNat (sp : Byte) : (stackCell sp).toNat = 0x0100 + sp.toNat := by
  rw [← stackAt_eq_stackCell, stackAt_toNat]

/-- An instruction that pushes writes stack cells only. -/
theorem writtenCells_push {i : Instr} {s : State} (hi : i.mnemonic ∈ [Mnemonic.pha, .php, .jsr, .brk]) {w : Word}
    (hw : w ∈ writtenCells i s) : ∃ sp, w = stackCell sp := by
  simp only [List.mem_cons, List.not_mem_nil, or_false] at hi
  obtain hi | hi | hi | hi := hi <;> simp only [writtenCells, hi, List.mem_cons, List.not_mem_nil, or_false] at hw
  · exact ⟨_, hw⟩
  · exact ⟨_, hw⟩
  · obtain rfl | rfl := hw
    · exact ⟨_, rfl⟩
    · exact ⟨_, rfl⟩
  · obtain rfl | rfl | rfl := hw
    · exact ⟨_, rfl⟩
    · exact ⟨_, rfl⟩
    · exact ⟨_, rfl⟩

/-- Settles O37: the cells of the frame, which lie in the stack page at every SP. -/
theorem pushesStayInStackPage : Obligations.PushesStayInStackPage := by
  intro i s t hi h w outside
  refine (exec_keepsUnlisted h).memory w fun hw => ?_
  obtain ⟨sp, rfl⟩ := writtenCells_push hi hw
  have := sp.isLt
  rw [stackCell_toNat] at outside
  omega

/-- A branch completes on its offset byte. -/
theorem branch_completes {i : Instr} {n : Mnemonic} (hi : i.mnemonic = n) (hn : n.modes = [.rel]) (f : Flag)
    (on : Bool) (s : State) : ∃ t, branch f on i.operand s = .next t := by
  obtain ⟨o, hop⟩ := operand_eq_rel hi hn
  rw [hop]
  exact ⟨_, withOffset_rel o s _⟩

/-- Settles O39: the mode of an instruction gives what its operation needs. -/
theorem everyInstructionCompletes : Obligations.EveryInstructionCompletes := by
  intro i s
  by_cases seq : i.mnemonic ∈ controlTransfers
  · rw [exec_eq_operation]
    cases hi : i.mnemonic
    case jmp | jsr =>
      obtain ⟨w, hw⟩ := address_some (mode_ne hi (by decide)) (mode_ne hi (by decide)) s
      exact ⟨_, withAddress_eq hw _⟩
    case rts | rti | brk => exact ⟨_, rfl⟩
    case bcc | bcs | beq | bne | bpl | bmi | bvc | bvs => exact branch_completes hi rfl _ _ s
    all_goals exact absurd (hi ▸ seq) (by decide)
  · obtain ⟨t, ht, -⟩ := exec_sequential i s seq
    exact ⟨t, ht⟩

end Proofs

end Sys2Proof
end

section
/-! PROOFS. I, D, B and U have no effect (spec 10_state.md R33 to R35, 43_arith_incdec.md R172, 60_exceptions.md R256):
two runs that start apart in them end apart in P alone, and only PHP and BRK put P anywhere else. -/

namespace Sys2Proof

namespace Machine.State

/-- A push of a byte that is not P does not depend on P. -/
theorem push_setP (s : State) (p v : Byte) : (s.setP p).push v = (s.push v).setP p := rfl

theorem pushWord_setP (s : State) (p : Byte) (w : Word) : (s.setP p).pushWord w = (s.pushWord w).setP p := by
  rw [pushWord, pushWord, push_setP, push_setP]

/-- The old P plays no part in an update that writes P. -/
theorem setP_setA_setP_advance (s : State) (p v q r : Byte) (len : Nat) :
    (((s.setP p).setA v).setP q).advance len = (((s.setA v).setP r).advance len).setP q := rfl

end Machine.State

namespace Proofs

open Machine Claims

/-- Two status bytes with the same C, Z, V and N. -/
def AgreeOnTested (p q : Byte) : Prop := ∀ f ∈ testedFlags, getFlag p f = getFlag q f

namespace AgreeOnTested

variable {p q : Byte} (h : AgreeOnTested p q)

include h

theorem setZN (v : Byte) : AgreeOnTested (setZN v p) (setZN v q) := fun f hf => by
  rw [getFlag_setZN, getFlag_setZN, h f hf]

theorem setFlag (g : Flag) (on : Bool) : AgreeOnTested (setFlag p g on) (setFlag q g on) := fun f hf => by
  rw [getFlag_setFlag, getFlag_setFlag, h f hf]

theorem compareFlags (r m : Byte) : AgreeOnTested (compareFlags r m p) (compareFlags r m q) := fun f hf => by
  rw [getFlag_compareFlags, getFlag_compareFlags, h f hf]

theorem bitTestFlags (a m : Byte) : AgreeOnTested (bitTestFlags a m p) (bitTestFlags a m q) := fun f hf => by
  rw [getFlag_bitTestFlags, getFlag_bitTestFlags, h f hf]

theorem aluFlags (r : AluResult) : AgreeOnTested (aluFlags r p) (aluFlags r q) := fun f hf => by
  rw [getFlag_aluFlags, getFlag_aluFlags, h f hf]

theorem shiftFlags (r : ShiftResult) : AgreeOnTested (shiftFlags r p) (shiftFlags r q) := fun f hf => by
  rw [getFlag_shiftFlags, getFlag_shiftFlags, h f hf]

end AgreeOnTested

/-- Two runs that complete in states apart in P alone, and there in no tested flag. -/
def ApartInUntested (first second : Host.Outcome State Fault Refusal) : Prop :=
  ∃ t q, first = .next t ∧ second = .next (t.setP q) ∧ AgreeOnTested q t.p

/-- An operation on the operand's byte, which does not depend on P. -/
theorem apart_withValue {m : Operand} (himp : m.mode ≠ .imp) {s : State} {p : Byte} {k k' : Byte → State}
    {status : Byte → Byte} (same : ∀ v, k' v = (k v).setP (status v)) (agree : ∀ v, AgreeOnTested (status v) (k v).p) :
    ApartInUntested (withValue m s k) (withValue m (s.setP p) k') := by
  obtain ⟨v, hv⟩ := operandValue_some himp s
  have hv' : operandValue m (s.setP p) = some v := by rw [operandValue_setP, hv]
  exact ⟨k v, status v, withValue_eq hv k, by rw [withValue_eq hv', same], agree v⟩

/-- An add or subtract: the carry it reads agrees, and D it does not read (R172). -/
theorem apart_arithmetic {s : State} {p : Byte} (h : AgreeOnTested p s.p) (f : Byte → Byte → Bool → AluResult)
    {m : Operand} (himp : m.mode ≠ .imp) : ApartInUntested (arithmetic f m s) (arithmetic f m (s.setP p)) := by
  have carry : (s.setP p).flag .c = s.flag .c := h .c (by decide)
  refine apart_withValue himp (fun v => ?_) fun v => h.aluFlags (f s.a v (s.flag .c))
  rw [carry]
  exact s.setP_setA_setP_advance p _ _ _ _

/-- An operation on the operand's address, which does not depend on P. -/
theorem apart_withAddress {m : Operand} (hacc : m.mode ≠ .acc) (himp : m.mode ≠ .imp) {s : State} {p : Byte}
    {k k' : Word → State} (same : ∀ w, k' w = (k w).setP p) (agree : ∀ w, AgreeOnTested p (k w).p) :
    ApartInUntested (withAddress m s k) (withAddress m (s.setP p) k') := by
  obtain ⟨w, hw⟩ := address_some hacc himp s
  have hw' : (resolve m (s.setP p)).address = some w := by rw [resolve_setP, hw]
  exact ⟨k w, p, withAddress_eq hw k, by rw [withAddress_eq hw', same], agree w⟩

/-- A read-modify-write whose new byte does not depend on P. -/
theorem apart_modifyOperand {m : Operand} (himm : m.mode ≠ .imm) (himp : m.mode ≠ .imp) (s : State) {p : Byte}
    {value : Byte → Byte} {status status' : Byte → Byte} (agree : ∀ v, AgreeOnTested (status' v) (status v)) :
    ApartInUntested (modifyOperand m s fun v => (value v, status v))
      (modifyOperand m (s.setP p) fun v => (value v, status' v)) := by
  by_cases hacc : m.mode = .acc
  · rw [eq_acc_of_mode hacc]
    exact ⟨_, status' s.a, modifyOperand_acc s _, modifyOperand_acc (s.setP p) _, agree s.a⟩
  · obtain ⟨w, hw⟩ := address_some hacc himp s
    have hw' : (resolve m (s.setP p)).address = some w := by rw [resolve_setP, hw]
    exact ⟨_, status' (s.read w), modifyOperand_memory himm hw _, modifyOperand_memory himm hw' _, agree (s.read w)⟩

/-- A branch on a flag that agrees. -/
theorem apart_branch {s : State} {p : Byte} (h : AgreeOnTested p s.p) {f : Flag} (hf : f ∈ testedFlags) (on : Bool)
    {m : Operand} (hm : ∃ o, m = .rel o) : ApartInUntested (branch f on m s) (branch f on m (s.setP p)) := by
  obtain ⟨o, rfl⟩ := hm
  have same : (s.setP p).flag f = s.flag f := h f hf
  rw [branch, branch, withOffset_rel, withOffset_rel, same]
  split
  · exact ⟨_, p, rfl, rfl, h⟩
  · exact ⟨_, p, rfl, rfl, h⟩

/-- Every instruction but PHP and BRK keeps the difference in P. -/
theorem exec_apart {i : Instr} {s : State} {p : Byte} (h : AgreeOnTested p s.p) (hphp : i.mnemonic ≠ .php)
    (hbrk : i.mnemonic ≠ .brk) : ApartInUntested (exec i s) (exec i (s.setP p)) := by
  have carry : (s.setP p).flag .c = s.flag .c := h .c (by decide)
  rw [exec_eq_operation, exec_eq_operation]
  cases hi : i.mnemonic
  case lda | ldx | ldy | and | ora | eor =>
    exact apart_withValue (mode_ne hi (by decide)) (fun _ => rfl) fun v => h.setZN _
  case bit => exact apart_withValue (mode_ne hi (by decide)) (fun _ => rfl) fun v => h.bitTestFlags s.a v
  case cmp | cpx | cpy => exact apart_withValue (mode_ne hi (by decide)) (fun _ => rfl) fun v => h.compareFlags _ v
  case adc | sbc => exact apart_arithmetic h _ (mode_ne hi (by decide))
  case sta | stx | sty | jmp =>
    exact apart_withAddress (mode_ne hi (by decide)) (mode_ne hi (by decide)) (fun _ => rfl) fun _ => h
  case jsr =>
    refine apart_withAddress (mode_ne hi (by decide)) (mode_ne hi (by decide)) (fun w => ?same) fun w => ?agree
    case same =>
      rw [State.setP_pc, State.pushWord_setP]
      rfl
    case agree => rwa [State.setPc_p, State.pushWord_p]
  case inc | dec =>
    exact apart_modifyOperand (mode_ne hi (by decide)) (mode_ne hi (by decide)) s fun v => h.setZN _
  case asl | lsr =>
    exact apart_modifyOperand (mode_ne hi (by decide)) (mode_ne hi (by decide)) s fun v => h.shiftFlags _
  case rol =>
    simp only [operation, rol, carry]
    exact apart_modifyOperand (mode_ne hi (by decide)) (mode_ne hi (by decide)) s fun v => h.shiftFlags _
  case ror =>
    simp only [operation, ror, carry]
    exact apart_modifyOperand (mode_ne hi (by decide)) (mode_ne hi (by decide)) s fun v => h.shiftFlags _
  case tax | tay | txa | tya | tsx | inx | iny | dex | dey | pla => exact ⟨_, _, rfl, rfl, h.setZN _⟩
  case txs | pha | rts | nop => exact ⟨_, p, rfl, rfl, h⟩
  case plp | rti => exact ⟨_, _, rfl, rfl, fun _ _ => rfl⟩
  case bcc | bcs | beq | bne | bpl | bmi | bvc | bvs => exact apart_branch h (by decide) _ (operand_eq_rel hi rfl)
  case clc | cld | cli | clv | sec | sed | sei => exact ⟨_, _, rfl, rfl, h.setFlag _ _⟩
  case php => exact absurd hi hphp
  case brk => exact absurd hi hbrk

/-- Two states that agree in all but untested flags and some cells. -/
structure AlikeOutside (cells : List Word) (t u : State) : Prop where
  registers : ∀ r, u.reg r = t.reg r
  pc : u.pc = t.pc
  flags : ∀ f ∈ testedFlags, u.flag f = t.flag f
  memory : ∀ w, w ∉ cells → u.read w = t.read w

theorem alikeOutside_setP {t : State} {q : Byte} (h : AgreeOnTested q t.p) : AlikeOutside [] t (t.setP q) :=
  ⟨t.setP_reg q, t.setP_pc q, h, fun w _ => t.setP_read q w⟩

/-- PHP pushes P, so its one cell differs too. -/
theorem alikeOutside_push {s : State} {p : Byte} (h : AgreeOnTested p s.p) :
    AlikeOutside [stackCell s.sp] ((s.push s.p).advance 1) (((s.setP p).push p).advance 1) where
  registers r := by cases r <;> rfl
  pc := rfl
  flags := h
  memory w hw := by
    have kept := (changesOnly_push s s.p).memory w hw
    have kept' := (changesOnly_push (s.setP p) p).memory w hw
    rw [State.advance_read, State.advance_read, kept, kept', State.setP_read]

/-- BRK pushes P, so that one of its three cells differs too. -/
theorem alikeOutside_softwareInterrupt {s : State} {p : Byte} (h : AgreeOnTested p s.p) :
    AlikeOutside [stackCell (s.sp - 2)] s.softwareInterrupt (s.setP p).softwareInterrupt where
  registers r := by cases r <;> simp
  pc := by
    rw [State.softwareInterrupt_pc, State.softwareInterrupt_pc]
    rfl
  flags f hf := by rw [softwareInterrupt_flag, softwareInterrupt_flag, State.setP_flag, h f hf, State.flag]
  memory w hw := by
    have other : w ≠ stackCell (s.sp - 2) := List.ne_of_not_mem_cons hw
    rw [softwareInterrupt_read_stackCell, softwareInterrupt_read_stackCell, if_neg other, State.setP_sp, if_neg other]
    rfl

/-- Settles O38: the two runs end apart in P alone, and after PHP and BRK in the cell that P was pushed to. -/
theorem untestedFlagsHaveNoEffect : Obligations.UntestedFlagsHaveNoEffect := by
  intro i s p h
  by_cases hphp : i.mnemonic = .php
  · obtain ⟨registers, pc, flags, memory⟩ := alikeOutside_push h
    refine ⟨_, _, ?_, ?_, registers, pc, flags, fun w hw _ => memory w (by simpa using hw hphp)⟩
    · rw [exec_eq_operation, hphp]
      rfl
    · rw [exec_eq_operation, hphp]
      rfl
  by_cases hbrk : i.mnemonic = .brk
  · obtain ⟨registers, pc, flags, memory⟩ := alikeOutside_softwareInterrupt h
    refine ⟨_, _, ?_, ?_, registers, pc, flags, fun w _ hw => memory w (by simpa using hw hbrk)⟩
    · rw [exec_eq_operation, hbrk]
      rfl
    · rw [exec_eq_operation, hbrk]
      rfl
  obtain ⟨t, q, ht, hu, agree⟩ := exec_apart h hphp hbrk
  obtain ⟨registers, pc, flags, memory⟩ := alikeOutside_setP agree
  exact ⟨t, t.setP q, ht, hu, registers, pc, flags, fun w _ _ => memory w List.not_mem_nil⟩

end Proofs

end Sys2Proof
end

section
/-! PROOFS. The absolute, post-indexed and relative modes in numbers (spec 40_step_and_addressing.md R107 to R109,
R112 to R115). -/

namespace Sys2Proof

namespace Machine

/-- An index is added to an address in sixteen bits. -/
theorem add_zext16_toNat (w : Word) (index : Byte) : (w + zext16 index).toNat = (w.toNat + index.toNat) % 65536 := by
  rw [BitVec.toNat_add, zext16_toNat]

/-- Relative mode alone gives an offset (R113 to R115). -/
theorem relativeAddress_eq_none {m : Operand} (h : m.mode ≠ .rel) (s : State) :
    (resolve m s).relativeAddress = none := by
  cases m
  case rel => exact absurd rfl h
  all_goals rfl

end Machine

namespace Proofs

open Machine Claims

/-- Settles O49: the word is assembled low byte first, and the index is added in sixteen bits. -/
theorem absoluteModesAssembleAndIndex : Obligations.AbsoluteModesAssembleAndIndex := by
  intro s i rest h
  refine ⟨fun abs => ?_, fun absx => ?_, fun absy => ?_⟩
  · rw [operand_of_fetch_mode h abs]
    exact ⟨_, rfl, word_toNat _ _⟩
  · rw [operand_of_fetch_mode h absx]
    exact ⟨_, rfl, by rw [add_zext16_toNat, word_toNat]⟩
  · rw [operand_of_fetch_mode h absy]
    exact ⟨_, rfl, by rw [add_zext16_toNat, word_toNat]⟩

/-- Settles O51: the pointer is read in page zero, and Y is added to it in sixteen bits. -/
theorem postIndexedIndirectAddsYToPointer : Obligations.PostIndexedIndirectAddsYToPointer := by
  intro s i rest h indy
  rw [operand_of_fetch_mode h indy]
  exact ⟨_, rfl, by rw [add_zext16_toNat, zeroPagePointer_toNat]⟩

/-- Settles O52: the resolver's case of the mode. -/
theorem relativeModeGivesOffset : Obligations.RelativeModeGivesOffset := by
  intro s i rest h
  refine ⟨fun rel => ?_, fun other => relativeAddress_eq_none other s, ?_⟩
  · rw [operand_of_fetch_mode h rel]
    exact ⟨_, rfl, relOffset_eq _, rfl⟩
  · rintro (acc | imp)
    · rw [eq_acc_of_mode acc]
      rfl
    · rw [eq_imp_of_mode imp]
      rfl

end Proofs

end Sys2Proof
end

section
/-! PROOFS. The step (spec 40_step_and_addressing.md R100, 60_exceptions.md R250 to R252, 20_memory.md R62, R65) and the
reset (70_reset_and_hazards.md R280). -/

namespace Sys2Proof

namespace Machine

theorem operandLength_le (m : Operand) : operandLength m ≤ 3 := by cases m <;> simp [operandLength]

/-- Two addresses near a base are apart when their distances are. -/
theorem add_ofNat_ne {base : Word} {j k : Nat} (hj : j < 65536) (hk : k < 65536) (h : j ≠ k) :
    base + BitVec.ofNat 16 j ≠ base + BitVec.ofNat 16 k := by
  intro e
  have := congrArg BitVec.toNat ((BitVec.add_right_inj base).mp e)
  rw [BitVec.toNat_ofNat, BitVec.toNat_ofNat] at this
  omega

/-- A clock on a step that faults keeps the state and signals the fault (R251). -/
theorem State.drive_clock_of_fault {s : State} {f : Fault} (h : step s = .fault f) :
    s.drive .clock = { state := s, signal := some f } := by rw [State.drive, h]

end Machine

namespace Proofs

open Machine Claims

/-- Settles O40: the bytes at PC, PC + 1 and PC + 2 are the fetched ones. -/
theorem stepRunsDecodedInstruction : Obligations.StepRunsDecodedInstruction := by
  intro s
  refine ⟨fun i rest h => step_of_decode h, fun op h => ?_⟩
  have fetched : decode s.fetchBytes = .error (.undefinedOpcode op) := h
  rw [step, fetched]

/-- Settles O41: an undefined byte has no entry, and the step faults with it. -/
theorem undefinedOpcodeKeepsStateAndSignals : Obligations.UndefinedOpcodeKeepsStateAndSignals := by
  intro s h
  exact State.drive_clock_of_fault (step_of_lookup_none ((mem_undefinedBytes_iff _).mp h))

/-- A step completes, or it faults on an undefined byte. -/
theorem step_completes_or_undefined (s : State) :
    (∃ t, step s = .next t) ∨
      (s.read s.pc ∈ undefinedBytes ∧ step s = .fault (.undefinedOpcode (s.read s.pc) s.pc)) := by
  cases hf : lookupOpcode (s.read s.pc) with
  | none => exact .inr ⟨(mem_undefinedBytes_iff _).mpr hf, step_of_lookup_none hf⟩
  | some f =>
    rw [step_of_lookup hf]
    exact .inl (everyInstructionCompletes _ s)

/-- Settles O42: neither of the two outcomes of a step is ContractViolation or a refusal. -/
theorem definedOpcodeAlwaysSteps : Obligations.DefinedOpcodeAlwaysSteps := by
  intro s
  obtain ⟨t, ht⟩ | ⟨undefined, hstep⟩ := step_completes_or_undefined s
  · rw [ht]
    exact ⟨fun _ => ⟨t, rfl⟩, by simp, by simp⟩
  · rw [hstep]
    exact ⟨fun defined => absurd undefined defined, by simp, by simp⟩

/-- Settles O53: the two addresses after 0xFFFF wrap. -/
theorem fetchWrapsPastTopOfMemory : Obligations.FetchWrapsPastTopOfMemory := by
  intro s top
  rw [State.fetchBytes, top]
  rfl

/-- Settles O54: the next fetch reads the memory that the instruction left, and a JSR read its operand before. -/
theorem storeIsSeenByNextFetch : Obligations.StoreIsSeenByNextFetch := by
  intro s
  refine ⟨fun i r k h hk hw => ?store, fun i seq => ?sequential, fun w rest h => ?jsr⟩
  case store =>
    obtain ⟨w, t, hw', ht, cell, advanced, frame⟩ := storePutsRegisterAtResolvedAddress i r s h
    obtain rfl := Option.some.inj (hw.symm.trans hw')
    have short := operandLength_le i.operand
    refine ⟨t, ht, by rw [fetchBytes_getElem? advanced hk, cell], fun j hj other => ?_⟩
    have apart := add_ofNat_ne (base := s.pc) (j := operandLength i.operand + j) (k := operandLength i.operand + k)
      (by omega) (by omega) (by omega)
    rw [fetchBytes_getElem? advanced hj, frame.memory _ (by simpa using apart)]
  case sequential =>
    obtain ⟨t, ht, advanced⟩ := exec_sequential i s seq
    exact ⟨t, ht, fun j hj => fetchBytes_getElem? advanced hj⟩
  case jsr => exact ⟨_, (step_of_decode h).trans (exec_jsr w s), rfl⟩

/-- Settles O59: the reset state and the reset command give the registers their values, and the command keeps memory. -/
theorem resetSetsRegistersAndKeepsMemory : Obligations.ResetSetsRegistersAndKeepsMemory :=
  ⟨⟨rfl, rfl, rfl, rfl, rfl⟩, fun _ _ => ⟨rfl, rfl, rfl, rfl, rfl, rfl, rfl, fun _ => rfl⟩⟩

end Proofs

end Sys2Proof
end
